-- ==== Sys2Proof/Word.lean ====
section
/-! DEFINITION. The word types of the block (00_scope.md R10) and the 28-byte identifier buffer. -/

namespace Sys2Proof

/-- A command word, a response word or a T5577 block: 32 bits (R10). -/
abbrev Word := BitVec 32

/-- One byte of an identifier buffer. -/
abbrev Byte := BitVec 8

/-- A 28-byte identifier buffer: ID_IN, ID_OUT and every S.ID_BUF (R10, R34, R47, R48). -/
abbrev IdBytes := Vector Byte 28

/-- The all-zero identifier buffer. -/
abbrev IdBytes.zero : IdBytes := Vector.replicate 28 0

end Sys2Proof
end

