-- ==== Sys2Proof/Syntax.lean ====
section
/-! DEFINITION. The names the commands are written in: protocols, layouts, variants, the instruction
type with one constructor per row of spec/opcode_table.json, and the pseudo-instructions of R101. -/

namespace Sys2Proof

/-- The six protocols an ALLOC selects (R93). -/
inductive Prot where
  | fdxb | indala | ioprox | jablotron | paradox | pac
  deriving DecidableEq, Repr

/-- The frame layout S.FORMAT selects (R34, R95): `l64` is FORMAT 0, `l224` is FORMAT 1 (INDALA only). -/
inductive Layout where
  | l64 | l224
  deriving DecidableEq, Repr

/-- The seven codec variants: a protocol together with its frame layout (R15, R33). -/
inductive Variant where
  | fdxb | indala64 | indala224 | ioprox | jablotron | paradox | pac
  deriving DecidableEq, Repr

/-- One constructor per row of the opcode table (R102). `slot` is CMD[23:20], `fmt` is CMD[19:16],
`data` is CMD[15:0] and `len` is CMD[7:0] (R91, R98). -/
inductive Instr where
  | allocFdxb
  | allocIndala
  | allocIoprox
  | allocJablotron
  | allocParadox
  | allocPac
  | free (slot : BitVec 4)
  | start (slot : BitVec 4) (fmt : BitVec 4)
  | feedFdxb (slot : BitVec 4) (data : BitVec 16)
  | feedIndala64 (slot : BitVec 4) (data : BitVec 16)
  | feedIndala224 (slot : BitVec 4) (data : BitVec 16)
  | feedIoprox (slot : BitVec 4) (data : BitVec 16)
  | feedJablotron (slot : BitVec 4) (data : BitVec 16)
  | feedParadox (slot : BitVec 4) (data : BitVec 16)
  | feedPac (slot : BitVec 4) (data : BitVec 16)
  | getData (slot : BitVec 4)
  | modulateFdxb (slot : BitVec 4)
  | modulateIndala64 (slot : BitVec 4)
  | modulateIndala224 (slot : BitVec 4)
  | modulateIoprox (slot : BitVec 4)
  | modulateJablotron (slot : BitVec 4)
  | modulateParadox (slot : BitVec 4)
  | modulatePac (slot : BitVec 4)
  | writeT5577Fdxb (slot : BitVec 4)
  | writeT5577Indala64 (slot : BitVec 4)
  | writeT5577Indala224 (slot : BitVec 4)
  | writeT5577Ioprox (slot : BitVec 4)
  | writeT5577Jablotron (slot : BitVec 4)
  | writeT5577Paradox (slot : BitVec 4)
  | writeT5577Pac (slot : BitVec 4)
  | genCrc16 (len : BitVec 8)
  | genCrc8Maxim (len : BitVec 8)
  | genXor8 (len : BitVec 8)
  | genSumComp8 (len : BitVec 8)
  | genOddPar7 (len : BitVec 8)
  deriving DecidableEq, Repr

/-- The pseudo-instructions of R101, each one command word (`Pseudo.word` in Decode.lean). -/
inductive Pseudo where
  | start64 (slot : BitVec 4)
  | start224 (slot : BitVec 4)
  | restart (slot : BitVec 4)
  | feedi (slot : BitVec 4) (interval : BitVec 16)
  | feeds (slot : BitVec 4) (sample : Int)
  | crc16 (len : BitVec 8)
  deriving DecidableEq, Repr

end Sys2Proof
end

