-- ==== Sys2Proof/WellFormed.lean ====
section
/-! DEFINITION. The operand ranges the opcode table gives its rows, and the slot selector of the rows
that share one word (R102).

A word whose operand is out of range is a legal encoding: it decodes, and its meaning raises the
status the rule names (E_BAD_FORMAT, E_BAD_LEN). `Instr.wf` says which operands the table lists. -/

namespace Sys2Proof

/-- The operands are in the range their row of the opcode table lists: START's FMT is 0 or 1 (R95),
GEN's LEN is 0..28, and exactly 1 for ODDPAR7 (R200). -/
def Instr.wf : Instr → Bool
  | .start _ fmt => decide (fmt.toNat ≤ 1)
  | .genCrc16 len | .genCrc8Maxim len | .genXor8 len | .genSumComp8 len => decide (len.toNat ≤ 28)
  | .genOddPar7 len => decide (len.toNat = 1)
  | .allocFdxb | .allocIndala | .allocIoprox | .allocJablotron | .allocParadox | .allocPac => true
  | .free _ | .getData _ => true
  | .feedFdxb _ _ | .feedIndala64 _ _ | .feedIndala224 _ _ | .feedIoprox _ _ | .feedJablotron _ _ => true
  | .feedParadox _ _ | .feedPac _ _ => true
  | .modulateFdxb _ | .modulateIndala64 _ | .modulateIndala224 _ | .modulateIoprox _ => true
  | .modulateJablotron _ | .modulateParadox _ | .modulatePac _ => true
  | .writeT5577Fdxb _ | .writeT5577Indala64 _ | .writeT5577Indala224 _ | .writeT5577Ioprox _ => true
  | .writeT5577Jablotron _ | .writeT5577Paradox _ | .writeT5577Pac _ => true

/-- The operands are in the range R101 lists for a pseudo-instruction: FEEDS takes a sample of -32768..32767, and
CRC16 a LEN that GEN.CRC16 takes (R200). -/
def Pseudo.wf : Pseudo → Bool
  | .feeds _ sample => decide (-32768 ≤ sample) && decide (sample ≤ 32767)
  | .crc16 len => decide (len.toNat ≤ 28)
  | .start64 _ | .start224 _ | .restart _ | .feedi _ _ => true

/-- The variant a FEED, MODULATE or WRITE_T5577 row is for: its selector `slot.PROT` (and
`slot.FORMAT`) in the opcode table. `none` for the rows the word alone selects (R102). -/
def Instr.row? : Instr → Option Variant
  | .feedFdxb _ _ | .modulateFdxb _ | .writeT5577Fdxb _ => some .fdxb
  | .feedIndala64 _ _ | .modulateIndala64 _ | .writeT5577Indala64 _ => some .indala64
  | .feedIndala224 _ _ | .modulateIndala224 _ | .writeT5577Indala224 _ => some .indala224
  | .feedIoprox _ _ | .modulateIoprox _ | .writeT5577Ioprox _ => some .ioprox
  | .feedJablotron _ _ | .modulateJablotron _ | .writeT5577Jablotron _ => some .jablotron
  | .feedParadox _ _ | .modulateParadox _ | .writeT5577Paradox _ => some .paradox
  | .feedPac _ _ | .modulatePac _ | .writeT5577Pac _ => some .pac
  | .allocFdxb | .allocIndala | .allocIoprox | .allocJablotron | .allocParadox | .allocPac => none
  | .free _ | .start _ _ | .getData _ => none
  | .genCrc16 _ | .genCrc8Maxim _ | .genXor8 _ | .genSumComp8 _ | .genOddPar7 _ => none

/-- The row is one a slot of variant `v` selects (R102). -/
def Instr.selectedBy (v : Variant) (i : Instr) : Bool :=
  match i.row? with
  | some u => decide (u = v)
  | none => true

end Sys2Proof
end

