-- ==== Sys2Proof/Decode.lean ====
section
/-! DEFINITION. The decoder and the encoder of 30_encoding.md, each written from R91 to R95.

The word alone does not choose the row of a FEED, MODULATE or WRITE_T5577: "The variant-level rules
are chosen by the slot's state, not by the word" (R102). So the decoder takes, beside the word, the
variant of the slot the word names (log 4). -/

namespace Sys2Proof

/-! ### The fields of a command word (R91) -/

/-- OP, bits 31:28 (R91). -/
def fieldOp (w : Word) : BitVec 4 := w.extractLsb' 28 4

/-- SEL, bits 27:24 (R91). -/
def fieldSel (w : Word) : BitVec 4 := w.extractLsb' 24 4

/-- SLOT, bits 23:20 (R91). -/
def fieldSlot (w : Word) : BitVec 4 := w.extractLsb' 20 4

/-- FMT, bits 19:16 (R91). -/
def fieldFmt (w : Word) : BitVec 4 := w.extractLsb' 16 4

/-- DATA, bits 15:0 (R91). -/
def fieldData (w : Word) : BitVec 16 := w.extractLsb' 0 16

/-- The high byte of DATA, bits 15:8, which must be 0 for GEN (R91). -/
def fieldDataHigh (w : Word) : BitVec 8 := w.extractLsb' 8 8

/-- LEN, bits 7:0 (R91, R98). -/
def fieldLen (w : Word) : BitVec 8 := w.extractLsb' 0 8

/-! ### Decoding -/

/-- Why a word is no command (R99, R373). `illegal` is E_ILLEGAL: a reserved OP or GSEL, or a nonzero
field that must be 0. `badProt` is E_BAD_PROT: ALLOC with PROT 6..15. The step writes the status and
goes on, so both are safe. -/
inductive DecodeError where
  | illegal
  | badProt
  deriving DecidableEq, Repr

/-- The ALLOC row of a PROT value (R93). -/
def allocRow (prot : BitVec 4) : Except DecodeError Instr :=
  match prot.toNat with
  | 0 => .ok .allocFdxb
  | 1 => .ok .allocIndala
  | 2 => .ok .allocIoprox
  | 3 => .ok .allocJablotron
  | 4 => .ok .allocParadox
  | 5 => .ok .allocPac
  | _ => .error .badProt

/-- The GEN row of a GSEL value (R94). -/
def genRow (gsel : BitVec 4) (len : BitVec 8) : Except DecodeError Instr :=
  match gsel.toNat with
  | 0 => .ok (.genCrc16 len)
  | 1 => .ok (.genCrc8Maxim len)
  | 2 => .ok (.genXor8 len)
  | 3 => .ok (.genSumComp8 len)
  | 4 => .ok (.genOddPar7 len)
  | _ => .error .illegal

/-- The FEED row of a variant (R102, R123). -/
def feedRow (v : Variant) (slot : BitVec 4) (data : BitVec 16) : Instr :=
  match v with
  | .fdxb => .feedFdxb slot data
  | .indala64 => .feedIndala64 slot data
  | .indala224 => .feedIndala224 slot data
  | .ioprox => .feedIoprox slot data
  | .jablotron => .feedJablotron slot data
  | .paradox => .feedParadox slot data
  | .pac => .feedPac slot data

/-- The MODULATE row of a variant (R102, R125). -/
def modulateRow (v : Variant) (slot : BitVec 4) : Instr :=
  match v with
  | .fdxb => .modulateFdxb slot
  | .indala64 => .modulateIndala64 slot
  | .indala224 => .modulateIndala224 slot
  | .ioprox => .modulateIoprox slot
  | .jablotron => .modulateJablotron slot
  | .paradox => .modulateParadox slot
  | .pac => .modulatePac slot

/-- The WRITE_T5577 row of a variant (R102, R126). -/
def writeRow (v : Variant) (slot : BitVec 4) : Instr :=
  match v with
  | .fdxb => .writeT5577Fdxb slot
  | .indala64 => .writeT5577Indala64 slot
  | .indala224 => .writeT5577Indala224 slot
  | .ioprox => .writeT5577Ioprox slot
  | .jablotron => .writeT5577Jablotron slot
  | .paradox => .writeT5577Paradox slot
  | .pac => .writeT5577Pac slot

/-- The row if the fields that must be 0 are 0, else E_ILLEGAL: `check_reserved` of
40_descriptor_ops.md. -/
def checkReserved (zero : Bool) (row : Except DecodeError Instr) : Except DecodeError Instr :=
  if zero then row else .error .illegal

/-- The decoder (R91 to R95, R102), total on 32-bit words. `v` is the variant of the slot the word
names. Reserved fields are checked before PROT and GSEL are read (R371). START has OP 2 (R91, R100): the word
0x02110000 that R122's example prints has OP 0 and raises E_ILLEGAL (log 20: DEDUCED). -/
def decode (v : Variant) (w : Word) : Except DecodeError Instr :=
  let sel := fieldSel w
  let slot := fieldSlot w
  let fmt := fieldFmt w
  let data := fieldData w
  match (fieldOp w).toNat with
  | 0 => checkReserved (slot == 0 && fmt == 0 && data == 0) (allocRow sel)
  | 1 => checkReserved (sel == 0 && fmt == 0 && data == 0) (.ok (.free slot))
  | 2 => checkReserved (sel == 0 && data == 0) (.ok (.start slot fmt))
  | 3 => checkReserved (sel == 0 && fmt == 0) (.ok (feedRow v slot data))
  | 4 => checkReserved (sel == 0 && fmt == 0 && data == 0) (.ok (.getData slot))
  | 5 => checkReserved (sel == 0 && fmt == 0 && data == 0) (.ok (modulateRow v slot))
  | 6 => checkReserved (sel == 0 && fmt == 0 && data == 0) (.ok (writeRow v slot))
  | 7 => checkReserved (slot == 0 && fmt == 0 && fieldDataHigh w == 0) (genRow sel (fieldLen w))
  | _ => .error .illegal

/-- The variant a slot that no command has allocated selects: all its fields are 0 (R34), so its PROT
reads FDXB and its FORMAT 0. -/
def Variant.ofFreeSlot : Variant := .fdxb

/-- The instruction the decoder reads from the low 32 bits of `w`, as the first command after reset:
every slot is then free, so a FEED, MODULATE or WRITE_T5577 word selects the FDXB row (log 4). -/
def decodeTableWord (nbits w : Nat) : Option Instr :=
  match decode Variant.ofFreeSlot (BitVec.ofNat 32 (w % 2 ^ nbits)) with
  | .ok i => some i
  | .error _ => none

/-! ### Encoding -/

/-- A command word from its five fields (R91). -/
def packWord (op sel slot fmt : BitVec 4) (data : BitVec 16) : Word :=
  op ++ sel ++ slot ++ fmt ++ data

/-- The word of an instruction (R92 to R94, R100). -/
def encode : Instr → Word
  | .allocFdxb => packWord 0 0 0 0 0
  | .allocIndala => packWord 0 1 0 0 0
  | .allocIoprox => packWord 0 2 0 0 0
  | .allocJablotron => packWord 0 3 0 0 0
  | .allocParadox => packWord 0 4 0 0 0
  | .allocPac => packWord 0 5 0 0 0
  | .free n => packWord 1 0 n 0 0
  | .start n fmt => packWord 2 0 n fmt 0
  | .feedFdxb n d | .feedIndala64 n d | .feedIndala224 n d | .feedIoprox n d => packWord 3 0 n 0 d
  | .feedJablotron n d | .feedParadox n d | .feedPac n d => packWord 3 0 n 0 d
  | .getData n => packWord 4 0 n 0 0
  | .modulateFdxb n | .modulateIndala64 n | .modulateIndala224 n => packWord 5 0 n 0 0
  | .modulateIoprox n | .modulateJablotron n => packWord 5 0 n 0 0
  | .modulateParadox n | .modulatePac n => packWord 5 0 n 0 0
  | .writeT5577Fdxb n | .writeT5577Indala64 n | .writeT5577Indala224 n => packWord 6 0 n 0 0
  | .writeT5577Ioprox n | .writeT5577Jablotron n => packWord 6 0 n 0 0
  | .writeT5577Paradox n | .writeT5577Pac n => packWord 6 0 n 0 0
  | .genCrc16 len => packWord 7 0 0 0 (0#8 ++ len)
  | .genCrc8Maxim len => packWord 7 1 0 0 (0#8 ++ len)
  | .genXor8 len => packWord 7 2 0 0 (0#8 ++ len)
  | .genSumComp8 len => packWord 7 3 0 0 (0#8 ++ len)
  | .genOddPar7 len => packWord 7 4 0 0 (0#8 ++ len)

/-- The word of a pseudo-instruction (R101). A sample is encoded as two's complement. R101 gives FEEDS no word
for a sample outside -32768..32767, which `Pseudo.wf` refuses; this function then gives the word of the sample
modulo 2^16 (log 21: DESIGN CHOICE). -/
def Pseudo.word : Pseudo → Word
  | .start64 n => packWord 2 0 n 0 0
  | .start224 n => packWord 2 0 n 1 0
  | .restart n => packWord 2 0 n 0 0
  | .feedi n i => packWord 3 0 n 0 i
  | .feeds n x => packWord 3 0 n 0 (BitVec.ofInt 16 x)
  | .crc16 len => packWord 7 0 0 0 (0#8 ++ len)

end Sys2Proof
end

