-- ==== Sys2Proof/Config.lean ====
section
/-! DEFINITION. The implementation parameters of 00_scope.md R9 as plain data, and the one free value.

"A model takes each OPEN entry as an argument" (R9): the argument stands in State as the field `cfg`
(log 3). Every statement about all states therefore holds for every configuration. -/

namespace Sys2Proof

/-- The Indala 64 permutation map (R241, R242; parameters of R9 with the spec's table as default, I39).
`fcPos` lists the transmission positions of fc bit 7 down to 0, `cnPos` those of cn bit 15 down to 0,
`p1Pos` and `p2Pos` those of the parity bits, `chkBits` the card-number bits of INDALA_CHK. -/
structure IndalaMap where
  fcPos : List Nat
  cnPos : List Nat
  p1Pos : Nat
  p2Pos : Nat
  chkBits : List Nat
  deriving DecidableEq, Repr

/-- The map of R241 and the bit set of R242. -/
def IndalaMap.default : IndalaMap where
  fcPos := [57, 49, 44, 47, 48, 53, 39, 58]
  cnPos := [42, 45, 43, 40, 52, 36, 35, 51, 46, 33, 37, 54, 56, 59, 50, 41]
  p1Pos := 34
  p2Pos := 38
  chkBits := [14, 12, 9, 8, 6, 5, 2, 0]

/-- A map is a configuration of this block when it places 8 facility bits, 16 card bits and two parity
bits at distinct positions of 33..61, the positions R241's own table uses (log 9: DESIGN CHOICE). -/
def IndalaMap.wf (m : IndalaMap) : Bool :=
  decide (m.fcPos.length = 8) && decide (m.cnPos.length = 16)
    && decide ((m.fcPos ++ m.cnPos ++ [m.p1Pos, m.p2Pos]).Nodup)
    && (m.fcPos ++ m.cnPos ++ [m.p1Pos, m.p2Pos]).all (fun t => decide (33 ≤ t) && decide (t ≤ 61))
    && m.chkBits.all (fun b => decide (b < 16))

/-- HOST_MAP, the platform addresses of the buffers (R71). "No rule of this spec depends on HOST_MAP":
nothing in the model reads it (log 16). -/
structure HostMap where
  cmd : Nat
  resp : Nat
  idIn : Nat
  idOut : Nat
  /-- WAVE[p], one address for each of the six buffers (R49), by the protocol code. -/
  wave : Vector Nat 6
  /-- WAVE_LEN[p], one address for each of the six counts (R49), by the protocol code. -/
  waveLen : Vector Nat 6
  blocks : Nat
  blockCount : Nat
  deriving DecidableEq, Repr

/-- The parameters of R9 that are OPEN or have a default. The other parameters of R9 are fixed numbers
and stand where their rule is modelled: the biphase windows in Machine/Demod.lean, WAVE_CAP in
Machine/Render.lean. -/
structure Config where
  /-- NUM_SLOTS, 1..16 (D1). -/
  numSlots : Nat
  /-- FSK_N[IOPROX], samples per bit (D17). -/
  fskNIoprox : Nat
  /-- FSK_N[PARADOX], samples per bit (D17). -/
  fskNParadox : Nat
  /-- The FSK_DECIDE rounding bound ε (I7): 0 is the exact model (log 6). -/
  fskEps : Nat
  /-- PSK_N, samples per bit, even (D18). -/
  pskN : Nat
  /-- BITRATE[p], 10..2047 (R359). -/
  bitrateFdxb : Nat
  bitrateIndala : Nat
  bitrateIoprox : Nat
  bitrateJablotron : Nat
  bitrateParadox : Nat
  bitratePac : Nat
  /-- The Indala 64 map (R241; I39). -/
  indala : IndalaMap
  /-- PARADOX_SYNC[0..2] and PARADOX_TRAILER (R311; I35). -/
  paradoxSync0 : Byte
  paradoxSync1 : Byte
  paradoxSync2 : Byte
  paradoxTrailer : Byte
  /-- PAC_LSB_FIRST (R331; I40). -/
  pacLsbFirst : Bool
  /-- T5577_CFG[v] (R358; I37). -/
  t5577Fdxb : Word
  t5577Indala64 : Word
  t5577Indala224 : Word
  t5577Ioprox : Word
  t5577Jablotron : Word
  t5577Paradox : Word
  t5577Pac : Word
  /-- HOST_MAP (R71; I36). -/
  hostMap : HostMap
  deriving DecidableEq, Repr

/-- FSK_N(p) (R9, R44); 0 for a protocol without an FSK demodulator. -/
def Config.fskN (c : Config) : Prot → Nat
  | .ioprox => c.fskNIoprox
  | .paradox => c.fskNParadox
  | .fdxb | .indala | .jablotron | .pac => 0

/-- PSK_N (R9, R45); 0 for a protocol without a PSK demodulator. -/
def Config.pskWidth (c : Config) : Prot → Nat
  | .indala => c.pskN
  | .fdxb | .ioprox | .jablotron | .paradox | .pac => 0

/-- BITRATE[p] (R9). -/
def Config.bitrate (c : Config) : Prot → Nat
  | .fdxb => c.bitrateFdxb
  | .indala => c.bitrateIndala
  | .ioprox => c.bitrateIoprox
  | .jablotron => c.bitrateJablotron
  | .paradox => c.bitrateParadox
  | .pac => c.bitratePac

/-- T5577_CFG[v] (R358). -/
def Config.t5577Cfg (c : Config) : Variant → Word
  | .fdxb => c.t5577Fdxb
  | .indala64 => c.t5577Indala64
  | .indala224 => c.t5577Indala224
  | .ioprox => c.t5577Ioprox
  | .jablotron => c.t5577Jablotron
  | .paradox => c.t5577Paradox
  | .pac => c.t5577Pac

/-- The bit rate is an integer in 10..2047 (R359). -/
def bitrateOk (b : Nat) : Bool := decide (10 ≤ b) && decide (b ≤ 2047)

/-- The ranges of R9, R359 and 92_eei_decisions.md: "A configuration outside this range is not a
configuration of this block" (R359). The upper bounds of FSK_N and PSK_N are what the 16-bit counters
of R44 and R45 hold (log 8: DEDUCED). -/
def Config.wf (c : Config) : Bool :=
  decide (1 ≤ c.numSlots) && decide (c.numSlots ≤ 16)
    && decide (1 ≤ c.fskNIoprox) && decide (c.fskNIoprox ≤ 65536)
    && decide (1 ≤ c.fskNParadox) && decide (c.fskNParadox ≤ 65536)
    && decide (2 ≤ c.pskN) && decide (c.pskN ≤ 65535) && decide (c.pskN % 2 = 0)
    && bitrateOk c.bitrateFdxb && bitrateOk c.bitrateIndala && bitrateOk c.bitrateIoprox
    && bitrateOk c.bitrateJablotron && bitrateOk c.bitrateParadox && bitrateOk c.bitratePac
    && c.indala.wf

/-- The configuration 95_test_vectors.md uses: NUM_SLOTS 2, the candidate rates and words of I10 to
I12, zero Paradox sync and trailer bytes (log 3: DESIGN CHOICE, the value State.reset holds), with the map
and PAC_LSB_FIRST of R9. Two fields are the model's own value (DESIGN CHOICE): the FSK rounding bound 0,
the exact model of R162 (log 6), and HOST_MAP with every address 0 (log 16). The spec gives HOST_MAP
no candidate, no vector sets it, and nothing reads it. -/
def Config.reference : Config where
  numSlots := 2
  fskNIoprox := 64
  fskNParadox := 50
  fskEps := 0
  pskN := 32
  bitrateFdxb := 32
  bitrateIndala := 32
  bitrateIoprox := 64
  bitrateJablotron := 64
  bitrateParadox := 50
  bitratePac := 32
  indala := IndalaMap.default
  paradoxSync0 := 0
  paradoxSync1 := 0
  paradoxSync2 := 0
  paradoxTrailer := 0
  pacLsbFirst := true
  t5577Fdxb := 0x00098080
  t5577Indala64 := 0x00081040
  t5577Indala224 := 0x000810E0
  t5577Ioprox := 0x00147040
  t5577Jablotron := 0x00158040
  t5577Paradox := 0x00107060
  t5577Pac := 0x00080080
  hostMap := ⟨0, 0, 0, 0, Vector.replicate 6 0, Vector.replicate 6 0, 0, 0⟩

/-- FREE VALUE (log 6): the bit of an FSK window whose two powers differ by at most the rounding bound
ε > 0. I7 leaves it to the implementation's arithmetic and says only that it is "a function of the
window alone". Never read when ε = 0. -/
opaque Config.fskNear : List Int → Bool

end Sys2Proof
end

