-- ==== Sys2Proof/Machine/State.lean ====
section
/-! DEFINITION. The state of the block (10_state.md), its reasons to stop, and the state after reset
(R400). Plain data throughout. -/

namespace Sys2Proof.Machine

/-- The status codes of RESP[3:0] (R370). Their numbers are `Status.code` in Machine/Flags.lean. -/
inductive Status where
  /-- OK: the command completed. -/
  | ok
  /-- E_ILLEGAL: a reserved OP or GSEL, or a nonzero field that must be 0. -/
  | illegal
  /-- E_BAD_PROT: ALLOC with PROT 6..15. -/
  | badProt
  /-- E_NO_SLOT: ALLOC with every slot allocated. -/
  | noSlot
  /-- E_NOT_ALLOCATED: the command names a slot that is not allocated. -/
  | notAllocated
  /-- E_BAD_FORMAT: START with an FMT the slot's protocol does not have. -/
  | badFormat
  /-- E_UNSUPPORTED: FEED on a PAC slot. -/
  | unsupported
  /-- E_DATA_NOT_VALID: GET_DATA on a slot whose DATA_VALID is 0. -/
  | dataNotValid
  /-- E_BAD_LEN: GEN with LEN > 28, or ODDPAR7 with LEN ≠ 1. -/
  | badLen
  deriving DecidableEq, Repr

/-- The mode of the IOPROX and PARADOX codecs (R38, R40): 0 is SEARCH, 1 is COLLECT. -/
inductive Mode where
  | search | collect
  deriving DecidableEq, Repr

/-- FDXB codec state (R36). -/
structure FdxbCodec where
  /-- S.ACC: newest bit at value bit 0. -/
  acc : BitVec 128
  /-- S.CNT: bits since the last clear, saturating at 128. -/
  cnt : BitVec 8
  deriving DecidableEq, Repr

/-- INDALA codec state (R37). -/
structure IndalaCodec where
  /-- S.ACC: newest bit at value bit 0; with FORMAT 0 only bits 63..0 are used. -/
  acc : BitVec 224
  /-- S.CNT: bits since the last clear, saturating at the frame length. -/
  cnt : BitVec 8
  deriving DecidableEq, Repr

/-- IOPROX codec state (R38). -/
structure IoproxCodec where
  mode : Mode
  /-- S.ZRUN: consecutive 0 bits seen in SEARCH, saturating at 255. -/
  zrun : BitVec 8
  /-- S.WIN: the collected window bits, newest at value bit 0. -/
  win : BitVec 55
  /-- S.WCNT: bits in S.WIN. -/
  wcnt : BitVec 6
  deriving DecidableEq, Repr

/-- JABLOTRON codec state (R39). -/
structure JablotronCodec where
  acc : BitVec 64
  cnt : BitVec 7
  deriving DecidableEq, Repr

/-- PARADOX codec state (R40). -/
structure ParadoxCodec where
  mode : Mode
  /-- S.SREG: the last 8 bits seen in SEARCH, newest at value bit 0. -/
  sreg : BitVec 8
  /-- S.SCNT: bits in S.SREG, saturating at 8. -/
  scnt : BitVec 4
  /-- S.BUF: the collected frame bits, newest at value bit 0. -/
  buf : BitVec 96
  /-- S.BCNT: bits in S.BUF. -/
  bcnt : BitVec 7
  deriving DecidableEq, Repr

/-- FSK demodulator state (R44). `win` has FSK_N(p) entries on a slot of an FSK protocol (log 10). -/
structure FskDemod where
  win : List (BitVec 16)
  cnt : BitVec 16
  deriving DecidableEq, Repr

/-- PSK1 demodulator state (R45). `win` has PSK_N entries on an INDALA slot (log 10). -/
structure PskDemod where
  win : List (BitVec 16)
  cnt : BitVec 16
  prevValid : Bool
  /-- S.PREV_SUM: the sum of the previous window, signed 32-bit. -/
  prevSum : BitVec 32
  deriving DecidableEq, Repr

/-- One slot: a codec and the demodulator it owns (R34 to R45). A slot uses the codec and demodulator
fields of its own protocol; the others stay as ALLOC left them. -/
structure Slot where
  /-- S.ALLOC. -/
  alloc : Bool
  /-- S.PROT. -/
  prot : Prot
  /-- S.FORMAT. -/
  format : Layout
  /-- S.DATA_VALID. -/
  dataValid : Bool
  /-- S.ID_BUF[0..27]. -/
  idBuf : IdBytes
  fdxb : FdxbCodec
  indala : IndalaCodec
  ioprox : IoproxCodec
  jablotron : JablotronCodec
  paradox : ParadoxCodec
  /-- S.SYNC of the BIPHASE demodulator (R43); false is non-sync. -/
  sync : Bool
  fsk : FskDemod
  psk : PskDemod
  deriving DecidableEq, Repr

/-- A waveform segment (R350): level and duration in carrier cycles. -/
structure Segment where
  level : Bool
  duration : BitVec 16
  deriving DecidableEq, Repr

/-- WAVE[p] and WAVE_LEN[p] (R49). `segs` lists the segments MODULATE wrote; every later segment of the
WAVE_CAP[p] reads (0,0) (log 11). -/
structure WaveBuf where
  segs : List Segment
  len : BitVec 16
  deriving DecidableEq, Repr

/-- What the HOST does to the block, besides reading it (R5, R47, R70, R400). -/
inductive HostAction where
  /-- Writes one byte of ID_IN. -/
  | writeIdIn (k : Fin 28) (b : Byte)
  /-- Writes CMD: runs one command (R78). -/
  | writeCmd (w : Word)
  /-- Asserts the external reset (R400). -/
  | assertReset
  deriving DecidableEq, Repr

/-- The machine's state. -/
structure State where
  /-- The configuration (R9): no step changes it (log 3). -/
  cfg : Config
  /-- The slots 0..NUM_SLOTS-1 (R34). -/
  slots : List Slot
  /-- CMD (R70): the command word the HOST wrote last (log 2). -/
  cmd : Word
  /-- RESP (R46). -/
  resp : Word
  /-- ID_IN[0..27] (R47). -/
  idIn : IdBytes
  /-- ID_OUT[0..27] (R48). -/
  idOut : IdBytes
  /-- WAVE[p] and WAVE_LEN[p], indexed by the protocol code (R49). -/
  waves : Vector WaveBuf 6
  /-- BLOCKS[0..7] (R50). -/
  blocks : Vector Word 8
  /-- BLOCK_COUNT (R50). -/
  blockCount : BitVec 4
  /-- The model's own: the HOST accesses still to come, in order (log 1). -/
  host : List HostAction
  deriving DecidableEq, Repr

/-- No command stops the block with a fault: "No error is fatal: the engine accepts the next command
whatever the last status was" (R374). So there is no fault. -/
inductive Fault where
  deriving DecidableEq, Repr

/-- Why `exec` gives no meaning. -/
inductive Refusal where
  /-- Raised by `exec` alone, for an instruction without a meaning yet. Safe. No arm raises it. -/
  | notModelled (mnemonic : String)
  /-- Raised by a FEED, MODULATE or WRITE_T5577 row when the allocated slot it names selects another
  row (R102). The spec has no such command: the word with that slot decodes to the other row, so
  `step` never raises this. Safe (log 5). -/
  | rowNotSelected
  deriving DecidableEq, Repr

/-- What every meaning answers. -/
abbrev Outcome := Host.Outcome State Fault Refusal

/-! ### Zero states and reset -/

/-- Every FDXB codec field 0 (R36). -/
def FdxbCodec.zero : FdxbCodec := ⟨0, 0⟩

/-- Every INDALA codec field 0 (R37). -/
def IndalaCodec.zero : IndalaCodec := ⟨0, 0⟩

/-- Every IOPROX codec field 0 (R38): SEARCH. -/
def IoproxCodec.zero : IoproxCodec := ⟨.search, 0, 0, 0⟩

/-- Every JABLOTRON codec field 0 (R39). -/
def JablotronCodec.zero : JablotronCodec := ⟨0, 0⟩

/-- Every PARADOX codec field 0 (R40): SEARCH. -/
def ParadoxCodec.zero : ParadoxCodec := ⟨.search, 0, 0, 0, 0⟩

/-- A waveform buffer with every segment (0,0) and no valid one (R49). -/
def WaveBuf.zero : WaveBuf := ⟨[], 0⟩

/-- A free slot: every field 0 (R34, R121). -/
def Slot.free : Slot where
  alloc := false
  prot := .fdxb
  format := .l64
  dataValid := false
  idBuf := IdBytes.zero
  fdxb := FdxbCodec.zero
  indala := IndalaCodec.zero
  ioprox := IoproxCodec.zero
  jablotron := JablotronCodec.zero
  paradox := ParadoxCodec.zero
  sync := false
  fsk := ⟨[], 0⟩
  psk := ⟨[], 0, false, 0⟩

/-- The state after reset (R400) of a block with configuration `c`, when the HOST is going to do `h`. -/
def State.resetWith (c : Config) (h : List HostAction) : State where
  cfg := c
  slots := List.replicate c.numSlots Slot.free
  cmd := 0
  resp := 0
  idIn := IdBytes.zero
  idOut := IdBytes.zero
  waves := Vector.replicate 6 WaveBuf.zero
  blocks := Vector.replicate 8 0
  blockCount := 0
  host := h

/-- The machine right after reset (R400), in the configuration of 95_test_vectors.md (log 3) and with
no HOST access to come (log 1). -/
def State.reset : State := State.resetWith Config.reference []

end Sys2Proof.Machine
end

