-- ==== Sys2Proof/Machine/Flags.lean ====
section
/-! DEFINITION. The response register and its flags (R51, R97, R370). -/

namespace Sys2Proof.Machine

/-- The status numbers of R370. -/
def Status.code : Status → BitVec 4
  | .ok => 0
  | .illegal => 1
  | .badProt => 2
  | .noSlot => 3
  | .notAllocated => 4
  | .badFormat => 5
  | .unsupported => 6
  | .dataNotValid => 7
  | .badLen => 8

/-- RESP from its fields (R97): RESULT 31:16, HANDLE 11:8, UNVERIFIED 5, DONE 4, STATUS 3:0; bits 15:12
and 7:6 read 0. -/
def respWord (status : Status) (done unverified : Bool) (handle : BitVec 4) (result : BitVec 16) : Word :=
  result ++ 0#4 ++ handle ++ 0#2 ++ BitVec.ofBool unverified ++ BitVec.ofBool done ++ status.code

/-- RESP.STATUS (R97). -/
def respStatus (r : Word) : BitVec 4 := r.extractLsb' 0 4

/-- RESP.DONE (R97). -/
def respDone (r : Word) : Bool := r.getLsbD 4

/-- RESP.UNVERIFIED (R97). -/
def respUnverified (r : Word) : Bool := r.getLsbD 5

/-- RESP.HANDLE (R97). -/
def respHandle (r : Word) : BitVec 4 := r.extractLsb' 8 4

/-- RESP.RESULT (R97). -/
def respResult (r : Word) : BitVec 16 := r.extractLsb' 16 16

/-- The variants whose DONE carries UNVERIFIED: PARADOX and INDALA224 (R51, R97). -/
def unverifiedVariant : Variant → Bool
  | .paradox | .indala224 => true
  | .fdxb | .indala64 | .ioprox | .jablotron | .pac => false

/-- The RESP of a FEED that completed (R123): `done` is the feed result. -/
def feedResp (v : Variant) (done : Bool) : Word :=
  respWord .ok done (done && unverifiedVariant v) 0 0

/-- The RESP of a command that completed with a RESULT (R97). -/
def resultResp (result : BitVec 16) : Word := respWord .ok false false 0 result

/-- The RESP of an ALLOC that completed (R120). -/
def handleResp (handle : BitVec 4) : Word := respWord .ok false false handle 0

/-- The RESP of a command that completed and produces no field (R97). -/
def okResp : Word := respWord .ok false false 0 0

/-- The RESP of an error: "every field except STATUS is 0" (R97, R372). -/
def errorResp (e : Status) : Word := respWord e false false 0 0

end Sys2Proof.Machine
end

