-- ==== Sys2Proof/Machine/Operands.lean ====
section
/-! DEFINITION. How operands are read: FEED's interval and sample (R96), bit sequences (R12), byte
sequences and big-endian numbers (R13, R14), and the constants of the variants (R33). -/

namespace Sys2Proof.Machine

/-! ### FEED's operand (R96) -/

/-- `zext_32(DATA)`: an unsigned count of ticks (R96, BIPHASE). -/
def intervalOf (data : BitVec 16) : Nat := data.toNat

/-- `sx16(DATA)`: a signed ADC sample (R11, R96, FSK and PSK1). -/
def sampleOf (data : BitVec 16) : Int := data.toInt

/-! ### Bit sequences (R12) -/

/-- `bits_of(x, n)`: the n low bits of x, most significant first (R12). -/
def bitsOf (n x : Nat) : List Bool := (List.range n).map fun t => x.testBit (n - 1 - t)

/-- `val(seq)`: the number whose bits are the sequence, most significant first (R12). -/
def val (seq : List Bool) : Nat := seq.foldl (fun v b => 2 * v + b.toNat) 0

/-- The sub-sequence `F[lo .. lo+n-1]`. -/
def slice (F : List Bool) (lo n : Nat) : List Bool := (F.drop lo).take n

/-- Bit `F[t]` of a frame; a position past the end reads 0. -/
def bitAt (F : List Bool) (t : Nat) : Bool := F.getD t false

/-- `bits_of` of each byte in turn. -/
def bitsOfBytes (bs : List Byte) : List Bool := bs.flatMap fun b => bitsOf 8 b.toNat

/-! ### Byte sequences (R13, R14) -/

/-- The big-endian number of a byte sequence: the first byte is the most significant (R13). -/
def beNat (bs : List Byte) : Nat := bs.foldl (fun v b => 256 * v + b.toNat) 0

/-- The n bytes of v mod 2^(8n), big-endian: what `MemWrite(BUF+k, n, v)` stores (R14, R70). -/
def beBytes (n v : Nat) : List Byte := (List.range n).map fun k => BitVec.ofNat 8 (v >>> (8 * (n - 1 - k)))

/-- `MemRead(id+k, n)` on an identifier's bytes (R14, R70). -/
def memRead (id : List Byte) (k n : Nat) : Nat := beNat ((id.drop k).take n)

/-- Byte `id[k]` of an identifier. -/
def byteAt (id : List Byte) (k : Nat) : Byte := id.getD k 0

/-- An identifier written into a 28-byte buffer: zeros follow it (R35, R124). -/
def padId (id : List Byte) : IdBytes :=
  ⟨((List.range 28).map fun k => id.getD k 0).toArray, by simp⟩

/-- The bytes `BUF[0..n-1]` of a 28-byte buffer. -/
def firstBytes (buf : IdBytes) (n : Nat) : List Byte := buf.toList.take n

/-! ### The constants of protocols and variants -/

/-- The protocol code, which also indexes WAVE (R33, R93, R355). -/
def protCode : Prot → Fin 6
  | .fdxb => 0
  | .indala => 1
  | .ioprox => 2
  | .jablotron => 3
  | .paradox => 4
  | .pac => 5

/-- The FORMAT number of a layout (R34, R95). -/
def layoutCode : Layout → BitVec 4
  | .l64 => 0
  | .l224 => 1

/-- The variant of a slot from its PROT and FORMAT (R15). -/
def variantOf : Prot → Layout → Variant
  | .fdxb, _ => .fdxb
  | .indala, .l64 => .indala64
  | .indala, .l224 => .indala224
  | .ioprox, _ => .ioprox
  | .jablotron, _ => .jablotron
  | .paradox, _ => .paradox
  | .pac, _ => .pac

/-- The protocol of a variant (R33). -/
def variantProt : Variant → Prot
  | .fdxb => .fdxb
  | .indala64 | .indala224 => .indala
  | .ioprox => .ioprox
  | .jablotron => .jablotron
  | .paradox => .paradox
  | .pac => .pac

/-- PAYLOAD(v) in bytes (R33). -/
def payload : Variant → Nat
  | .fdxb => 16
  | .indala64 => 3
  | .indala224 => 28
  | .ioprox => 5
  | .jablotron => 5
  | .paradox => 6
  | .pac => 8

/-- The raw frame length L in bits (R33). -/
def frameLen : Variant → Nat
  | .fdxb => 128
  | .indala64 => 64
  | .indala224 => 224
  | .ioprox => 64
  | .jablotron => 64
  | .paradox => 96
  | .pac => 128

/-- The layouts START's FMT selects on a slot of a protocol (R95): 0 everywhere, 1 on INDALA only. -/
def layoutOfFmt (p : Prot) (fmt : BitVec 4) : Option Layout :=
  if fmt = 0 then some .l64
  else if fmt = 1 ∧ p = .indala then some .l224
  else none

end Sys2Proof.Machine
end

