-- ==== Sys2Proof/Machine/Ops.lean ====
section
/-! DEFINITION. The named operations on the state: the registers and buffers, raising a status, the
slot lookup, and the shared shapes of the commands (40_descriptor_ops.md). -/

namespace Sys2Proof.Machine

/-! ### Registers and buffers -/

/-- RESP is rewritten whole (R46). -/
def State.setResp (s : State) (r : Word) : State := { s with resp := r }

/-- CMD, as the HOST writes it (R70). -/
def State.setCmd (s : State) (w : Word) : State := { s with cmd := w }

/-- One byte of ID_IN, as the HOST writes it (R47). -/
def State.setIdIn (s : State) (k : Fin 28) (b : Byte) : State := { s with idIn := s.idIn.set k b }

/-- ID_OUT, as GET_DATA writes it: the identifier, then zeros (R124). -/
def State.setIdOut (s : State) (id : List Byte) : State := { s with idOut := padId id }

/-- WAVE[p] and WAVE_LEN[p], as MODULATE writes them (R125). -/
def State.setWave (s : State) (p : Prot) (seq : List Segment) : State :=
  { s with waves := s.waves.set (protCode p) ⟨seq, BitVec.ofNat 16 seq.length⟩ }

/-- The eight BLOCKS entries from the blocks of a frame: 0 past the last one (R50). -/
def padBlocks (blk : List Word) : Vector Word 8 :=
  ⟨((List.range 8).map fun k => blk.getD k 0).toArray, by simp⟩

/-- BLOCKS and BLOCK_COUNT, as WRITE_T5577 writes them: entries past the last block are 0 (R50, R126). -/
def State.setBlocks (s : State) (blk : List Word) : State :=
  { s with blocks := padBlocks blk, blockCount := BitVec.ofNat 4 blk.length }

/-- Slot n is replaced; a slot number at or above NUM_SLOTS names no slot and nothing changes (R34). -/
def State.setSlot (s : State) (n : Nat) (S : Slot) : State := { s with slots := s.slots.set n S }

/-- What the HOST is still going to do. -/
def State.setHost (s : State) (h : List HostAction) : State := { s with host := h }

/-! ### Raising a status -/

/-- `raise E_X`: RESP is {STATUS: E_X} with every other field 0, and nothing else changes (R14, R372).
This is the block's only reaction to an error; there is no entry to or return from a handler (R374). -/
def State.raise (s : State) (e : Status) : State := s.setResp (errorResp e)

/-! ### Slots -/

/-- `slot(n)` of 40_descriptor_ops.md: the slot, if n names one and it is allocated (R34). -/
def State.allocated? (s : State) (n : BitVec 4) : Option Slot :=
  match s.slots[n.toNat]? with
  | some S => if S.alloc then some S else none
  | none => none

/-- The variant of a slot (R15). -/
def Slot.variant (S : Slot) : Variant := variantOf S.prot S.format

/-- The variant the slot a word names selects (R102). A slot number at or above NUM_SLOTS reads as a
free slot does (R34). -/
def State.variantAt (s : State) (n : BitVec 4) : Variant :=
  match s.slots[n.toNat]? with
  | some S => S.variant
  | none => Variant.ofFreeSlot

/-- The state ALLOC and START give a slot of protocol `p` in layout `f`: every codec and demodulator
field 0, no data (R120, R122, R401). -/
def Slot.fresh (c : Config) (p : Prot) (f : Layout) : Slot :=
  { Slot.free with
    alloc := true
    prot := p
    format := f
    fsk := ⟨List.replicate (c.fskN p) 0, 0⟩
    psk := ⟨List.replicate (c.pskWidth p) 0, 0, false, 0⟩ }

/-- The least free slot (R120). -/
def State.leastFree? (s : State) : Option Nat := s.slots.findIdx? fun S => !S.alloc

/-! ### The shared shapes of the commands -/

/-- ALLOC (R120), for the protocol of the row. -/
def allocate (p : Prot) (s : State) : Outcome :=
  match s.leastFree? with
  | none => .next (s.raise .noSlot)
  | some n => .next ((s.setSlot n (Slot.fresh s.cfg p .l64)).setResp (handleResp (BitVec.ofNat 4 n)))

/-- A command on an allocated slot: E_NOT_ALLOCATED if the slot is not allocated (R370). -/
def onSlot (s : State) (n : BitVec 4) (run : Slot → Outcome) : Outcome :=
  match s.allocated? n with
  | none => .next (s.raise .notAllocated)
  | some S => run S

/-- A command row on an allocated slot of variant `v` (R102). The refusal is for a row the slot does not
select, which no word decodes to (log 5). -/
def onRow (v : Variant) (s : State) (n : BitVec 4) (run : Slot → Outcome) : Outcome :=
  onSlot s n fun S => if S.variant = v then run S else .refused .rowNotSelected

/-- What a variant's FEED rule leaves of a slot: its codec and demodulator after the step, and the
identifier if a frame was captured (R123, R127). -/
structure Fed where
  slot : Slot
  id : Option (List Byte)
  deriving DecidableEq, Repr

/-- A captured identifier is written to ID_BUF, zeros behind it, and DATA_VALID is set (R35, R123). -/
def Fed.stored (r : Fed) : Slot :=
  match r.id with
  | none => r.slot
  | some id => { r.slot with idBuf := padId id, dataValid := true }

/-- FEED on a slot of variant `v` (R123): `feed` is the variant's rule. -/
def feedOn (v : Variant) (feed : Config → Slot → Fed) (n : BitVec 4) (s : State) : Outcome :=
  onRow v s n fun S =>
    let r := feed s.cfg S
    .next ((s.setSlot n.toNat r.stored).setResp (feedResp v r.id.isSome))

/-- MODULATE on a slot of variant `v` (R125): `frame` is FRAME_v and `render` RENDER_v at the bit rate
it is given. -/
def modulateOn (v : Variant) (frame : Config → List Byte → List Bool)
    (render : List Bool → Nat → List Segment) (n : BitVec 4) (s : State) : Outcome :=
  onRow v s n fun _ =>
    let seq := render (frame s.cfg (firstBytes s.idIn (payload v))) (s.cfg.bitrate (variantProt v))
    .next ((s.setWave (variantProt v) seq).setResp (resultResp (BitVec.ofNat 16 seq.length)))

/-- T5577_BLOCKS_v (R357): the configuration word, then the frame in 32-bit big-endian chunks, the
first-sent bit at bit 31 (R75). -/
def t5577Blocks (cfgWord : Word) (F : List Bool) : List Word :=
  cfgWord :: (List.range (F.length / 32)).map fun k => BitVec.ofNat 32 (val (slice F (32 * k) 32))

/-- WRITE_T5577 on a slot of variant `v` (R126), with the layout function MODULATE uses. -/
def writeT5577On (v : Variant) (frame : Config → List Byte → List Bool) (n : BitVec 4) (s : State) :
    Outcome :=
  onRow v s n fun _ =>
    let blk := t5577Blocks (s.cfg.t5577Cfg v) (frame s.cfg (firstBytes s.idIn (payload v)))
    .next ((s.setBlocks blk).setResp (resultResp (BitVec.ofNat 16 blk.length)))

/-- GEN (R200): the generator `g` on ID_IN[0..LEN-1]; E_BAD_LEN when LEN is not legal for it. -/
def genOn (legal : Nat → Bool) (g : List Byte → BitVec 16) (len : BitVec 8) (s : State) : Outcome :=
  if legal len.toNat then .next (s.setResp (resultResp (g (firstBytes s.idIn len.toNat))))
  else .next (s.raise .badLen)

/-- The lengths GEN takes for a byte generator: 0..28 (R200). -/
def lenUpTo28 (n : Nat) : Bool := decide (n ≤ 28)

/-- The length GEN takes for ODDPAR7: exactly 1 (R200). -/
def lenOne (n : Nat) : Bool := decide (n = 1)

end Sys2Proof.Machine
end

