-- ==== Sys2Proof/Machine/Checksums.lean ====
section
/-! DEFINITION. The CRC and checksum generators (42_checksums.md) and the five GEN rows. -/

namespace Sys2Proof.Machine

/-- One of the eight shifts of CRC16 (R190). -/
def crc16Bit (crc : BitVec 16) : BitVec 16 :=
  if crc.getLsbD 15 then (crc <<< 1) ^^^ 0x1021#16 else crc <<< 1

/-- CRC16 takes one byte in (R190). -/
def crc16Byte (crc : BitVec 16) (b : Byte) : BitVec 16 :=
  crc16Bit^[8] (crc ^^^ (b.zeroExtend 16 <<< 8))

/-- CRC16, CRC-16/CCITT-FALSE (R190). -/
def crc16 (d : List Byte) : BitVec 16 := d.foldl crc16Byte 0xFFFF

/-- One of the eight shifts of CRC8MAXIM (R191). -/
def crc8Bit (crc : BitVec 8) : BitVec 8 :=
  if crc.getLsbD 0 then (crc >>> 1) ^^^ 0x8C#8 else crc >>> 1

/-- CRC8MAXIM takes one byte in (R191). -/
def crc8Byte (crc : BitVec 8) (b : Byte) : BitVec 8 := crc8Bit^[8] (crc ^^^ b)

/-- CRC8MAXIM, CRC-8/MAXIM (R191). -/
def crc8Maxim (d : List Byte) : Byte := d.foldl crc8Byte 0

/-- XOR8 (R192). -/
def xor8 (d : List Byte) : Byte := d.foldl (· ^^^ ·) 0

/-- SUMCOMP8 (R193): 0xFF minus the byte sum mod 256. -/
def sumComp8 (d : List Byte) : Byte := 0xFF#8 - d.foldl (· + ·) 0

/-- ODDPAR7 (R194): 1 ⊕ c[0] ⊕ … ⊕ c[6]. -/
def oddPar7 (c : Byte) : Bool := (List.range 7).foldl (fun p k => p ^^ c.getLsbD k) true

/-- K_FDXB, the FDXB CRC constant: CRC16 of ten zero bytes (R195). -/
def kFdxb : BitVec 16 := crc16 (List.replicate 10 0)

/-- GEN.CRC16 (R200, R190). -/
def execGenCrc16 (len : BitVec 8) (s : State) : Outcome := genOn lenUpTo28 crc16 len s

/-- GEN.CRC8MAXIM (R200, R191). -/
def execGenCrc8Maxim (len : BitVec 8) (s : State) : Outcome :=
  genOn lenUpTo28 (fun d => (crc8Maxim d).zeroExtend 16) len s

/-- GEN.XOR8 (R200, R192). -/
def execGenXor8 (len : BitVec 8) (s : State) : Outcome :=
  genOn lenUpTo28 (fun d => (xor8 d).zeroExtend 16) len s

/-- GEN.SUMCOMP8 (R200, R193). -/
def execGenSumComp8 (len : BitVec 8) (s : State) : Outcome :=
  genOn lenUpTo28 (fun d => (sumComp8 d).zeroExtend 16) len s

/-- GEN.ODDPAR7 (R200, R194). -/
def execGenOddPar7 (len : BitVec 8) (s : State) : Outcome :=
  genOn lenOne (fun d => (BitVec.ofBool (oddPar7 (byteAt d 0))).zeroExtend 16) len s

end Sys2Proof.Machine
end

