-- ==== Sys2Proof/Machine/Descriptor.lean ====
section
/-! DEFINITION. The descriptor operations every protocol shares (40_descriptor_ops.md): ALLOC, FREE,
START and GET_DATA. -/

namespace Sys2Proof.Machine

/-- ALLOC FDXB (R120). -/
def execAllocFdxb (s : State) : Outcome := allocate .fdxb s

/-- ALLOC INDALA (R120): the slot has the 64-bit layout. -/
def execAllocIndala (s : State) : Outcome := allocate .indala s

/-- ALLOC IOPROX (R120). -/
def execAllocIoprox (s : State) : Outcome := allocate .ioprox s

/-- ALLOC JABLOTRON (R120). -/
def execAllocJablotron (s : State) : Outcome := allocate .jablotron s

/-- ALLOC PARADOX (R120). -/
def execAllocParadox (s : State) : Outcome := allocate .paradox s

/-- ALLOC PAC (R120). -/
def execAllocPac (s : State) : Outcome := allocate .pac s

/-- FREE (R121): a slot that is not allocated is left as it is, with STATUS OK. -/
def execFree (n : BitVec 4) (s : State) : Outcome :=
  match s.allocated? n with
  | none => .next (s.setResp okResp)
  | some _ => .next ((s.setSlot n.toNat Slot.free).setResp okResp)

/-- START (R122): every codec and demodulator field, ID_BUF and DATA_VALID 0, and FORMAT the layout FMT
selects. -/
def execStart (n : BitVec 4) (fmt : BitVec 4) (s : State) : Outcome :=
  onSlot s n fun S =>
    match layoutOfFmt S.prot fmt with
    | none => .next (s.raise .badFormat)
    | some f => .next ((s.setSlot n.toNat (Slot.fresh s.cfg S.prot f)).setResp okResp)

/-- GET_DATA (R124). -/
def execGetData (n : BitVec 4) (s : State) : Outcome :=
  onSlot s n fun S =>
    if S.dataValid then
      .next ((s.setIdOut (firstBytes S.idBuf (payload S.variant))).setResp
        (resultResp (BitVec.ofNat 16 (payload S.variant))))
    else .next (s.raise .dataNotValid)

end Sys2Proof.Machine
end

