-- ==== Sys2Proof/Machine/Demod.lean ====
section
/-! DEFINITION. The channel demodulators of 41_demodulators.md: differential biphase, two-tone FSK with
exact Goertzel powers, and PSK1. -/

namespace Sys2Proof.Machine

/-! ### Differential biphase (R150 to R152) -/

/-- BP_T_HALF[p], BP_T_FULL[p], BP_T_ONEHALF[p] and BP_JITTER[p]: the values of R9, the same for FDXB
and JABLOTRON. -/
def bpTHalf : Nat := 16
def bpTFull : Nat := 32
def bpTOneHalf : Nat := 48
def bpJitter : Nat := 8

/-- The class of an interval (R150). -/
inductive BpClass where
  | half | full | oneHalf | invalid
  deriving DecidableEq, Repr

/-- The half-open window of width 2·BP_JITTER around a centre (R150). -/
def inWindow (centre i : Nat) : Bool := decide (centre - bpJitter ≤ i) && decide (i < centre + bpJitter)

/-- BP_CLASSIFY (R150): the windows are tested in the order HALF, FULL, ONEHALF. -/
def bpClassify (i : Nat) : BpClass :=
  if inWindow bpTHalf i then .half
  else if inWindow bpTFull i then .full
  else if inWindow bpTOneHalf i then .oneHalf
  else .invalid

/-- What BP_STEP answers: zero or one bit, the reset indication, and S.SYNC after it (R151). -/
structure BpStep where
  bit : Option Bool
  reset : Bool
  sync : Bool
  deriving DecidableEq, Repr

/-- BP_STEP (R151): the transition table. -/
def bpStep (sync : Bool) (i : Nat) : BpStep :=
  match bpClassify i, sync with
  | .invalid, _ => ⟨none, true, true⟩
  | .half, true => ⟨some true, false, true⟩
  | .full, true => ⟨some false, false, true⟩
  | .oneHalf, true => ⟨some true, false, false⟩
  | .half, false => ⟨none, false, true⟩
  | .full, false => ⟨some false, false, true⟩
  | .oneHalf, false => ⟨none, true, true⟩

/-! ### Two-tone FSK (R160 to R162)

The Goertzel coefficient 2·cos(w) is √2 for the high tone (w = 2π/8) and φ = (1+√5)/2 for the low tone
(w = 2π/10). Each is a root of c² = p·c + q with integers p, q, so the recurrence of R161 runs exactly on
pairs of integers, and the comparison of R162 is an exact comparison of integers (log 7: DEDUCED). -/

/-- The number `a + b·c`, where c is the root the pair (p, q) of its user names. -/
structure Quad where
  a : Int
  b : Int
  deriving DecidableEq, Repr

/-- The product of two such numbers: c² = p·c + q. -/
def Quad.mul (p q : Int) (x y : Quad) : Quad :=
  ⟨x.a * y.a + q * (x.b * y.b), x.a * y.b + x.b * y.a + p * (x.b * y.b)⟩

/-- One step of the recurrence of R161: (s1, s2) becomes (x + c·s1 − s2, s1). -/
def goertzelStep (p q : Int) (st : Quad × Quad) (x : Int) : Quad × Quad :=
  (⟨x + q * st.1.b - st.2.a, st.1.a + p * st.1.b - st.2.b⟩, st.1)

/-- GOERTZEL (R161): s1² + s2² − c·s1·s2, exactly. -/
def goertzel (p q : Int) (x : List Int) : Quad :=
  let st := x.foldl (goertzelStep p q) (⟨0, 0⟩, ⟨0, 0⟩)
  let s11 := Quad.mul p q st.1 st.1
  let s22 := Quad.mul p q st.2 st.2
  let cs := Quad.mul p q ⟨0, 1⟩ (Quad.mul p q st.1 st.2)
  ⟨s11.a + s22.a - cs.a, s11.b + s22.b - cs.b⟩

/-- P_hi: the power at FSK_W_HI = 2π/8, a + b·√2 (R162). -/
def powerHi (x : List Int) : Quad := goertzel 0 2 x

/-- P_lo: the power at FSK_W_LO = 2π/10, a + b·φ (R162). -/
def powerLo (x : List Int) : Quad := goertzel 1 1 x

/-- x + y·√5 > 0, for integers x and y. -/
def pos5 (x y : Int) : Bool :=
  if 0 < x then decide (0 ≤ y) || decide (5 * (y * y) < x * x)
  else decide (0 < y) && decide (x * x < 5 * (y * y))

/-- x + y·√5 + z·√2 > 0, for integers x, y and z: the squares of x + y·√5 and z·√2 are compared when
their signs differ. -/
def pos52 (x y z : Int) : Bool :=
  if 0 ≤ z then
    if pos5 (-x) (-y) then pos5 (2 * (z * z) - x * x - 5 * (y * y)) (-2 * (x * y))
    else pos5 x y || decide (0 < z)
  else pos5 x y && pos5 (x * x + 5 * (y * y) - 2 * (z * z)) (2 * (x * y))

/-- P_lo − P_hi > ε, exactly: twice the difference is (2·lo.a + lo.b − 2·hi.a) + lo.b·√5 − 2·hi.b·√2. -/
def loExceeds (eps : Nat) (x : List Int) : Bool :=
  pos52 (2 * (powerLo x).a + (powerLo x).b - 2 * (powerHi x).a - 2 * eps) (powerLo x).b (-2 * (powerHi x).b)

/-- P_hi − P_lo > ε, exactly. -/
def hiExceeds (eps : Nat) (x : List Int) : Bool :=
  pos52 (2 * (powerHi x).a - 2 * (powerLo x).a - (powerLo x).b - 2 * eps) (-(powerLo x).b) (2 * (powerHi x).b)

/-- FSK_DECIDE (R162) with the rounding bound ε of I7: exact whenever the powers differ by more than ε.
Inside the bound the bit is free; the exact model has ε = 0 and gives 0 on a tie (log 6). -/
def fskDecide (eps : Nat) (x : List Int) : Bool :=
  if loExceeds eps x then true
  else if hiExceeds eps x then false
  else if eps = 0 then false
  else Config.fskNear x

/-- FSK_STEP (R160): the window of N samples, and a bit on every N-th one. -/
def fskStep (n eps : Nat) (d : FskDemod) (x : BitVec 16) : FskDemod × Option Bool :=
  let win := d.win.set d.cnt.toNat x
  if d.cnt.toNat + 1 < n then (⟨win, BitVec.ofNat 16 (d.cnt.toNat + 1)⟩, none)
  else (⟨win, 0⟩, some (fskDecide eps ((win.take n).map sampleOf)))

/-! ### PSK1 (R170, R171) -/

/-- The sum of a window's samples, exact (R170). -/
def windowSum (win : List (BitVec 16)) : Int := (win.map sampleOf).sum

/-- The window after its older half is dropped: entries 0..N/2−1 take the newer half, the others stay
(R170). -/
def slideWindow (n : Nat) (win : List (BitVec 16)) : List (BitVec 16) :=
  (win.drop (n / 2)).take (n / 2) ++ win.drop (n / 2)

/-- PSK_STEP (R170): the first full window seeds PREV_SUM; each later one emits 1 exactly when the
product of the two sums is negative (R171). -/
def pskStep (n : Nat) (d : PskDemod) (x : BitVec 16) : PskDemod × Option Bool :=
  let win := d.win.set d.cnt.toNat x
  if d.cnt.toNat + 1 < n then (⟨win, BitVec.ofNat 16 (d.cnt.toNat + 1), d.prevValid, d.prevSum⟩, none)
  else
    let sum := windowSum (win.take n)
    (⟨slideWindow n win, BitVec.ofNat 16 (n / 2), true, BitVec.ofInt 32 sum⟩,
      if d.prevValid then some (decide (d.prevSum.toInt * sum < 0)) else none)

/-! ### A codec driven by its demodulator -/

/-- A BIPHASE codec takes one interval: on a reset it clears its accumulator (R152), on a bit it runs
`onBit`. -/
def feedBiphase (clear : Slot → Slot) (onBit : Bool → Slot → Fed) (i : Nat) (S : Slot) : Fed :=
  let r := bpStep S.sync i
  let T := { S with sync := r.sync }
  if r.reset then ⟨clear T, none⟩
  else match r.bit with
    | none => ⟨T, none⟩
    | some b => onBit b T

/-- An FSK codec takes one sample (R160): on a bit it runs `onBit`. -/
def feedFsk (onBit : Bool → Slot → Fed) (x : BitVec 16) (c : Config) (S : Slot) : Fed :=
  let r := fskStep (c.fskN S.prot) c.fskEps S.fsk x
  let T := { S with fsk := r.1 }
  match r.2 with
  | none => ⟨T, none⟩
  | some b => onBit b T

/-- A PSK codec takes one sample (R170): on a bit it runs `onBit`. -/
def feedPsk (onBit : Bool → Slot → Fed) (x : BitVec 16) (c : Config) (S : Slot) : Fed :=
  let r := pskStep (c.pskWidth S.prot) S.psk x
  let T := { S with psk := r.1 }
  match r.2 with
  | none => ⟨T, none⟩
  | some b => onBit b T

end Sys2Proof.Machine
end

