-- ==== Sys2Proof/Machine/Render.lean ====
section
/-! DEFINITION. The waveform renderers and the buffer capacities (49_modulation_t5577.md). -/

namespace Sys2Proof.Machine

/-- H1 = ⌊B/2⌋ and H2 = B − H1: the durations of the halves of a bit cell. -/
def halfOne (B : Nat) : BitVec 16 := BitVec.ofNat 16 (B / 2)
def halfTwo (B : Nat) : BitVec 16 := BitVec.ofNat 16 (B - B / 2)

/-- RENDER_BIPHASE from a given level (R351): a bit boundary always transitions, a mid-bit transition
encodes 1. -/
def renderBiphaseFrom (B : Nat) (lvl : Bool) : List Bool → List Segment
  | [] => []
  | b :: F => ⟨!lvl, halfOne B⟩ :: ⟨!lvl ^^ b, halfTwo B⟩ :: renderBiphaseFrom B (!lvl ^^ b) F

/-- RENDER_BIPHASE (R351): the level before the first bit is 1. -/
def renderBiphase (F : List Bool) (B : Nat) : List Segment := renderBiphaseFrom B true F

/-- RENDER_PSK from a given phase (R352): a phase reversal between cells encodes 1. -/
def renderPskFrom (B : Nat) (ph : Bool) : List Bool → List Segment
  | [] => []
  | b :: F => ⟨ph ^^ b, halfOne B⟩ :: ⟨ph ^^ b, halfTwo B⟩ :: renderPskFrom B (ph ^^ b) F

/-- RENDER_PSK (R352). -/
def renderPsk (F : List Bool) (B : Nat) : List Segment := renderPskFrom B false F

/-- The segments of one FSK bit (R353): ⌊B/10⌋ low-tone cycles for 1, ⌊B/8⌋ high-tone cycles for 0. -/
def fskCell (B : Nat) (b : Bool) : List Segment :=
  if b then (List.replicate (B / 10) [⟨true, 5⟩, ⟨false, 5⟩]).flatten
  else (List.replicate (B / 8) [⟨true, 4⟩, ⟨false, 4⟩]).flatten

/-- RENDER_FSK (R353). -/
def renderFsk (F : List Bool) (B : Nat) : List Segment := F.flatMap (fskCell B)

/-- RENDER_NRZ (R354): one segment per bit. -/
def renderNrz (F : List Bool) (B : Nat) : List Segment := F.map fun b => ⟨b, BitVec.ofNat 16 B⟩

/-- RENDER_v (R355). -/
def renderer : Variant → List Bool → Nat → List Segment
  | .fdxb | .jablotron => renderBiphase
  | .indala64 | .indala224 => renderPsk
  | .ioprox | .paradox => renderFsk
  | .pac => renderNrz

/-- WAVE_CAP[p] (R356). -/
def waveCap (c : Config) : Prot → Nat
  | .fdxb => 256
  | .indala => 448
  | .ioprox => 128 * (c.bitrate .ioprox / 8)
  | .jablotron => 128
  | .paradox => 192 * (c.bitrate .paradox / 8)
  | .pac => 128

end Sys2Proof.Machine
end

