-- ==== Sys2Proof/Machine/Fdxb.lean ====
section
/-! DEFINITION. The FDX-B codec (43_fdxb.md). -/

namespace Sys2Proof.Machine

/-- The 66 data bits D (R220, R221): nat 38, cc 10, dbf, an, res 16. -/
def fdxbData (id : List Byte) : List Bool :=
  bitsOf 38 (memRead id 0 5 % 2 ^ 38) ++ bitsOf 10 (memRead id 5 2 % 2 ^ 10)
    ++ [(byteAt id 7).getLsbD 0] ++ [(byteAt id 8).getLsbD 0] ++ bitsOf 16 (memRead id 9 2)

/-- Bit stuffing (R221): a 1 follows each eighth data bit. `i` is the index of the first bit given. -/
def stuffFrom (i : Nat) : List Bool → List Bool
  | [] => []
  | b :: D => if i % 8 = 7 then b :: true :: stuffFrom (i + 1) D else b :: stuffFrom (i + 1) D

/-- The stuffed stream of a data stream (R221). -/
def stuff (D : List Bool) : List Bool := stuffFrom 0 D

/-- The stream without its stuff bits, which stand at S[9m+8] (R221, R225). -/
def unstuffFrom (i : Nat) : List Bool → List Bool
  | [] => []
  | b :: S => if i % 9 = 8 then unstuffFrom (i + 1) S else b :: unstuffFrom (i + 1) S

/-- The data stream of a stuffed stream (R225). -/
def unstuff (S : List Bool) : List Bool := unstuffFrom 0 S

/-- FRAME_FDXB (R223): the header of R222, 53 stuffed bits, the CRC field, 21 stuffed bits, 27 zeros. -/
def frameFdxb (id : List Byte) : List Bool :=
  let S := stuff (fdxbData id)
  bitsOf 11 0x001 ++ slice S 0 53 ++ bitsOf 16 kFdxb.toNat ++ slice S 53 21 ++ List.replicate 27 false

/-- FDXB_EXTRACT (R225): the identifier of an accepted frame. -/
def extractFdxb (F : List Bool) : List Byte :=
  let D := unstuff (slice F 11 53 ++ slice F 80 21)
  beBytes 5 (val (slice D 0 38)) ++ beBytes 2 (val (slice D 38 10)) ++ beBytes 1 (bitAt D 48).toNat
    ++ beBytes 1 (bitAt D 49).toNat ++ beBytes 2 (val (slice D 50 16)) ++ List.replicate 5 0

/-- The test of a full 128-bit window (R224): the header and the CRC field. -/
def acceptFdxb (acc : BitVec 128) : Bool :=
  decide (acc.extractLsb' 117 11 = 0x001) && decide (acc.extractLsb' 48 16 = kFdxb)

/-- One demodulated bit of FEED_FDXB (R224), with the re-arm of R127. -/
def fdxbBit (b : Bool) (S : Slot) : Fed :=
  let acc : BitVec 128 := S.fdxb.acc <<< 1 ||| (BitVec.ofBool b).zeroExtend 128
  let cnt := min (S.fdxb.cnt.toNat + 1) 128
  if cnt = 128 ∧ acceptFdxb acc then
    ⟨{ S with fdxb := FdxbCodec.zero }, some (extractFdxb (bitsOf 128 acc.toNat))⟩
  else ⟨{ S with fdxb := ⟨acc, BitVec.ofNat 8 cnt⟩ }, none⟩

/-- FEED_FDXB (R224). -/
def feedFdxb (data : BitVec 16) (_ : Config) (S : Slot) : Fed :=
  feedBiphase (fun T => { T with fdxb := FdxbCodec.zero }) fdxbBit (intervalOf data) S

/-- FEED on an FDXB slot (R123, R224). -/
def execFeedFdxb (n : BitVec 4) (data : BitVec 16) (s : State) : Outcome :=
  feedOn .fdxb (feedFdxb data) n s

/-- MODULATE on an FDXB slot (R125, R226). -/
def execModulateFdxb (n : BitVec 4) (s : State) : Outcome :=
  modulateOn .fdxb (fun _ => frameFdxb) (renderer .fdxb) n s

/-- WRITE_T5577 on an FDXB slot (R126, R227). -/
def execWriteT5577Fdxb (n : BitVec 4) (s : State) : Outcome :=
  writeT5577On .fdxb (fun _ => frameFdxb) n s

end Sys2Proof.Machine
end

