-- ==== Sys2Proof/Machine/Indala.lean ====
section
/-! DEFINITION. The Indala 64 and Indala 224 codecs (44_indala.md). -/

namespace Sys2Proof.Machine

/-! ### Indala 64 -/

/-- The frame with the bits placed at the positions, one after the other (R244). -/
def placeBits (F : List Bool) (pos : List Nat) (bits : List Bool) : List Bool :=
  (pos.zip bits).foldl (fun G pb => G.set pb.1 pb.2) F

/-- The bits of a frame at the positions, in their order (R246). -/
def pickBits (F : List Bool) (pos : List Nat) : List Bool := pos.map (bitAt F)

/-- INDALA_CHK(cn) is even (R242). -/
def indalaChkEven (m : IndalaMap) (cn : Nat) : Bool :=
  decide ((m.chkBits.map fun b => (cn.testBit b).toNat).sum % 2 = 0)

/-- The positions P1 covers: the odd positions of 33..63 (R243). The parity positions of the map are
left out of both sets; with the spec's map that leaves out 38 alone, as R243 says (log 9). -/
def oddPositions (m : IndalaMap) : List Nat :=
  (List.range 64).filter fun t => decide (33 ≤ t ∧ t % 2 = 1 ∧ t ≠ m.p1Pos ∧ t ≠ m.p2Pos)

/-- The positions P2 covers: the even positions of 36..62 but the parity positions (R243). -/
def evenPositions (m : IndalaMap) : List Nat :=
  (List.range 63).filter fun t => decide (36 ≤ t ∧ t % 2 = 0 ∧ t ≠ m.p1Pos ∧ t ≠ m.p2Pos)

/-- A running parity that starts at 1 (R243). -/
def parityOver (F : List Bool) (ts : List Nat) : Bool := ts.foldl (fun p t => p ^^ bitAt F t) true

/-- FRAME_INDALA64 before the parity bits: markers, fc, cn and the trailer (R241, R242, R244). -/
def indala64Body (m : IndalaMap) (fc cn : Nat) : List Bool :=
  let marked := placeBits (List.replicate 64 false) [0, 2, 32] [true, true, true]
  let data := placeBits (placeBits marked m.fcPos (bitsOf 8 fc)) m.cnPos (bitsOf 16 cn)
  placeBits data [62, 63] [indalaChkEven m cn, !indalaChkEven m cn]

/-- FRAME_INDALA64 (R244): P1 and P2 are computed after the trailer has been placed (R243). -/
def frameIndala64 (m : IndalaMap) (id : List Byte) : List Bool :=
  let F := indala64Body m (byteAt id 0).toNat (memRead id 1 2)
  placeBits F [m.p1Pos, m.p2Pos] [parityOver F (oddPositions m), parityOver F (evenPositions m)]

/-- INDALA64_ACCEPT (R246): the markers, both parities over the bits as received, and the trailer. -/
def acceptIndala64 (m : IndalaMap) (F : List Bool) : Bool :=
  let even := indalaChkEven m (val (pickBits F m.cnPos))
  bitAt F 0 && bitAt F 2 && bitAt F 32
    && (bitAt F m.p1Pos == parityOver F (oddPositions m))
    && (bitAt F m.p2Pos == parityOver F (evenPositions m))
    && (bitAt F 62 == even) && (bitAt F 63 == !even)

/-- INDALA64_EXTRACT (R246). -/
def extractIndala64 (m : IndalaMap) (F : List Bool) : List Byte :=
  beBytes 1 (val (pickBits F m.fcPos)) ++ beBytes 2 (val (pickBits F m.cnPos))

/-- One demodulated bit of FEED_INDALA64 (R245), with the re-arm of R127. The accumulator is the low 64
bits of S.ACC; its other bits stay 0. -/
def indala64Bit (m : IndalaMap) (b : Bool) (S : Slot) : Fed :=
  let acc : BitVec 64 := S.indala.acc.truncate 64 <<< 1 ||| (BitVec.ofBool b).zeroExtend 64
  let cnt := min (S.indala.cnt.toNat + 1) 64
  let F := bitsOf 64 acc.toNat
  if cnt = 64 ∧ acceptIndala64 m F then ⟨{ S with indala := IndalaCodec.zero }, some (extractIndala64 m F)⟩
  else ⟨{ S with indala := ⟨acc.zeroExtend 224, BitVec.ofNat 8 cnt⟩ }, none⟩

/-- FEED_INDALA64 (R245). -/
def feedIndala64 (data : BitVec 16) (c : Config) (S : Slot) : Fed :=
  feedPsk (indala64Bit c.indala) data c S

/-- FEED on an INDALA slot with FORMAT 0 (R123, R245). -/
def execFeedIndala64 (n : BitVec 4) (data : BitVec 16) (s : State) : Outcome :=
  feedOn .indala64 (feedIndala64 data) n s

/-- MODULATE on an INDALA slot with FORMAT 0 (R125, R247). -/
def execModulateIndala64 (n : BitVec 4) (s : State) : Outcome :=
  modulateOn .indala64 (fun c => frameIndala64 c.indala) (renderer .indala64) n s

/-- WRITE_T5577 on an INDALA slot with FORMAT 0 (R126, R247). -/
def execWriteT5577Indala64 (n : BitVec 4) (s : State) : Outcome :=
  writeT5577On .indala64 (fun c => frameIndala64 c.indala) n s

/-! ### Indala 224 -/

/-- FRAME_INDALA224 (R248): the 28 bytes, most significant bit first. -/
def frameIndala224 (id : List Byte) : List Bool := bitsOfBytes ((List.range 28).map (byteAt id))

/-- The marker check of INDALA224 (R249). -/
def acceptIndala224 (F : List Bool) : Bool := bitAt F 0 && bitAt F 2 && bitAt F 32

/-- The identifier of an accepted INDALA224 frame (R249). -/
def extractIndala224 (F : List Bool) : List Byte :=
  (List.range 28).map fun k => BitVec.ofNat 8 (val (slice F (8 * k) 8))

/-- One demodulated bit of FEED_INDALA224 (R249), with the re-arm of R127. -/
def indala224Bit (b : Bool) (S : Slot) : Fed :=
  let acc : BitVec 224 := S.indala.acc <<< 1 ||| (BitVec.ofBool b).zeroExtend 224
  let cnt := min (S.indala.cnt.toNat + 1) 224
  let F := bitsOf 224 acc.toNat
  if cnt = 224 ∧ acceptIndala224 F then ⟨{ S with indala := IndalaCodec.zero }, some (extractIndala224 F)⟩
  else ⟨{ S with indala := ⟨acc, BitVec.ofNat 8 cnt⟩ }, none⟩

/-- FEED_INDALA224 (R249). -/
def feedIndala224 (data : BitVec 16) (c : Config) (S : Slot) : Fed := feedPsk indala224Bit data c S

/-- FEED on an INDALA slot with FORMAT 1 (R123, R249): DONE carries UNVERIFIED. -/
def execFeedIndala224 (n : BitVec 4) (data : BitVec 16) (s : State) : Outcome :=
  feedOn .indala224 (feedIndala224 data) n s

/-- MODULATE on an INDALA slot with FORMAT 1 (R125, R250). -/
def execModulateIndala224 (n : BitVec 4) (s : State) : Outcome :=
  modulateOn .indala224 (fun _ => frameIndala224) (renderer .indala224) n s

/-- WRITE_T5577 on an INDALA slot with FORMAT 1 (R126, R250). -/
def execWriteT5577Indala224 (n : BitVec 4) (s : State) : Outcome :=
  writeT5577On .indala224 (fun _ => frameIndala224) n s

end Sys2Proof.Machine
end

