-- ==== Sys2Proof/Machine/Ioprox.lean ====
section
/-! DEFINITION. The IOProx codec (45_ioprox.md). -/

namespace Sys2Proof.Machine

/-- IOPROX_CKS (R271): SUMCOMP8 of the sentinel 0xF0 and the four fields. -/
def ioproxCks (fac ver chi clo : Byte) : Byte := sumComp8 [0xF0, fac, ver, chi, clo]

/-- Eight bits of a byte and the stuff bit 1 after them (R272). -/
def stuffedByte (b : Byte) : List Bool := bitsOf 8 b.toNat ++ [true]

/-- FRAME_IOPROX (R272): nine zeros, the sentinel and the four fields each with a stuff bit, the
recomputed checksum, two trailing ones. id[4] is not read. -/
def frameIoprox (id : List Byte) : List Bool :=
  let fac := byteAt id 0
  let ver := byteAt id 1
  let chi := byteAt id 2
  let clo := byteAt id 3
  List.replicate 9 false ++ stuffedByte 0xF0 ++ stuffedByte fac ++ stuffedByte ver ++ stuffedByte chi
    ++ stuffedByte clo ++ bitsOf 8 (ioproxCks fac ver chi clo).toNat ++ [true, true]

/-- The byte of eight window bits `W[k .. k+7]` (R274). -/
def windowByte (W : List Bool) (k : Nat) : Byte := BitVec.ofNat 8 (val (slice W k 8))

/-- The check of a full 55-bit window and the identifier it holds (R274). -/
def ioproxWindow (W : List Bool) : Option (List Byte) :=
  let fac := windowByte W 9
  let ver := windowByte W 18
  let chi := windowByte W 27
  let clo := windowByte W 36
  let cks := windowByte W 45
  if windowByte W 0 = 0xF0 ∧ cks = ioproxCks fac ver chi clo then some [fac, ver, chi, clo, cks] else none

/-- IOPROX_BIT (R274): the preamble search, then the fixed 55-bit window. Eight zeros and the window are 63 bits,
so a second capture can come 63 bits after the first, where R406 says at least L = 64 (log 22: DEDUCED). -/
def ioproxBit (b : Bool) (S : Slot) : Fed :=
  let c := S.ioprox
  match c.mode with
  | .search =>
    if b = false then ⟨{ S with ioprox := { c with zrun := BitVec.ofNat 8 (min (c.zrun.toNat + 1) 255) } }, none⟩
    else if 8 ≤ c.zrun.toNat then ⟨{ S with ioprox := { c with mode := .collect, win := 1, wcnt := 1 } }, none⟩
    else ⟨{ S with ioprox := { c with zrun := 0 } }, none⟩
  | .collect =>
    let win : BitVec 55 := c.win <<< 1 ||| (BitVec.ofBool b).zeroExtend 55
    if c.wcnt.toNat + 1 < 55 then
      ⟨{ S with ioprox := { c with win := win, wcnt := BitVec.ofNat 6 (c.wcnt.toNat + 1) } }, none⟩
    else ⟨{ S with ioprox := IoproxCodec.zero }, ioproxWindow (bitsOf 55 win.toNat)⟩

/-- FEED_IOPROX (R273). -/
def feedIoprox (data : BitVec 16) (c : Config) (S : Slot) : Fed := feedFsk ioproxBit data c S

/-- FEED on an IOPROX slot (R123, R273). -/
def execFeedIoprox (n : BitVec 4) (data : BitVec 16) (s : State) : Outcome :=
  feedOn .ioprox (feedIoprox data) n s

/-- MODULATE on an IOPROX slot (R125, R275). -/
def execModulateIoprox (n : BitVec 4) (s : State) : Outcome :=
  modulateOn .ioprox (fun _ => frameIoprox) (renderer .ioprox) n s

/-- WRITE_T5577 on an IOPROX slot (R126, R276). -/
def execWriteT5577Ioprox (n : BitVec 4) (s : State) : Outcome :=
  writeT5577On .ioprox (fun _ => frameIoprox) n s

end Sys2Proof.Machine
end

