-- ==== Sys2Proof/Machine/Jablotron.lean ====
section
/-! DEFINITION. The Jablotron codec (46_jablotron.md). -/

namespace Sys2Proof.Machine

/-- JAB_CHK (R291), of the five identifier bytes. -/
def jabChk (id : List Byte) : Byte := xor8 id ^^^ 0x3A#8

/-- FRAME_JABLOTRON (R292): 0xFFFF, the card id, the checksum. -/
def frameJablotron (id : List Byte) : List Bool :=
  let five := (List.range 5).map (byteAt id)
  bitsOf 16 0xFFFF ++ bitsOf 40 (beNat five) ++ bitsOf 8 (jabChk five).toNat

/-- The five identifier bytes ACC[47:40] … ACC[15:8] of a window (R293). -/
def jablotronId (acc : BitVec 64) : List Byte :=
  [acc.extractLsb' 40 8, acc.extractLsb' 32 8, acc.extractLsb' 24 8, acc.extractLsb' 16 8, acc.extractLsb' 8 8]

/-- The test of a full 64-bit window (R293): preamble and checksum. -/
def acceptJablotron (acc : BitVec 64) : Bool :=
  decide (acc.extractLsb' 48 16 = 0xFFFF) && decide (acc.extractLsb' 0 8 = jabChk (jablotronId acc))

/-- One demodulated bit of FEED_JABLOTRON (R293), with the re-arm of R127. -/
def jablotronBit (b : Bool) (S : Slot) : Fed :=
  let acc : BitVec 64 := S.jablotron.acc <<< 1 ||| (BitVec.ofBool b).zeroExtend 64
  let cnt := min (S.jablotron.cnt.toNat + 1) 64
  if cnt = 64 ∧ acceptJablotron acc then
    ⟨{ S with jablotron := JablotronCodec.zero }, some (jablotronId acc)⟩
  else ⟨{ S with jablotron := ⟨acc, BitVec.ofNat 7 cnt⟩ }, none⟩

/-- FEED_JABLOTRON (R293). -/
def feedJablotron (data : BitVec 16) (_ : Config) (S : Slot) : Fed :=
  feedBiphase (fun T => { T with jablotron := JablotronCodec.zero }) jablotronBit (intervalOf data) S

/-- FEED on a JABLOTRON slot (R123, R293). -/
def execFeedJablotron (n : BitVec 4) (data : BitVec 16) (s : State) : Outcome :=
  feedOn .jablotron (feedJablotron data) n s

/-- MODULATE on a JABLOTRON slot (R125, R294). -/
def execModulateJablotron (n : BitVec 4) (s : State) : Outcome :=
  modulateOn .jablotron (fun _ => frameJablotron) (renderer .jablotron) n s

/-- WRITE_T5577 on a JABLOTRON slot (R126, R295). -/
def execWriteT5577Jablotron (n : BitVec 4) (s : State) : Outcome :=
  writeT5577On .jablotron (fun _ => frameJablotron) n s

end Sys2Proof.Machine
end

