-- ==== Sys2Proof/Machine/Pac.lean ====
section
/-! DEFINITION. The PAC codec, encode only (48_pac.md). -/

namespace Sys2Proof.Machine

/-- DATA7(c) (R331): seven data bits in the order PAC_LSB_FIRST says. -/
def pacData7 (lsbFirst : Bool) (c : Byte) : List Bool :=
  if lsbFirst then (List.range 7).map fun k => c.getLsbD k
  else (List.range 7).map fun k => c.getLsbD (6 - k)

/-- CHAR(c) (R331): start 0, seven data bits, odd parity, stop 1. -/
def pacChar (lsbFirst : Bool) (c : Byte) : List Bool :=
  [false] ++ pacData7 lsbFirst c ++ [oddPar7 c, true]

/-- The twelve characters of a frame (R332): STX, '2', '0', the identifier, its XOR8. -/
def pacChars (id : List Byte) : List Byte :=
  let eight := (List.range 8).map (byteAt id)
  [0x02, 0x32, 0x30] ++ eight ++ [xor8 eight]

/-- FRAME_PAC (R332): eight mark bits, then the characters. -/
def framePac (c : Config) (id : List Byte) : List Bool :=
  List.replicate 8 true ++ (pacChars id).flatMap (pacChar c.pacLsbFirst)

/-- FEED on a PAC slot (R333): E_UNSUPPORTED, after the E_NOT_ALLOCATED check. -/
def execFeedPac (n : BitVec 4) (_data : BitVec 16) (s : State) : Outcome :=
  onRow .pac s n fun _ => .next (s.raise .unsupported)

/-- MODULATE on a PAC slot (R125, R334). -/
def execModulatePac (n : BitVec 4) (s : State) : Outcome :=
  modulateOn .pac framePac (renderer .pac) n s

/-- WRITE_T5577 on a PAC slot (R126, R335). -/
def execWriteT5577Pac (n : BitVec 4) (s : State) : Outcome :=
  writeT5577On .pac framePac n s

end Sys2Proof.Machine
end

