-- ==== Sys2Proof/Machine/Paradox.lean ====
section
/-! DEFINITION. The Paradox codec (47_paradox.md). -/

namespace Sys2Proof.Machine

/-- B[1..9] of the pre-shift buffer: the sync bytes and the six identifier bytes (R311). -/
def paradoxBody (c : Config) (id : List Byte) : List Byte :=
  [c.paradoxSync0, c.paradoxSync1, c.paradoxSync2] ++ (List.range 6).map (byteAt id)

/-- The pre-shift buffer B[0..11] (R311). -/
def paradoxBuffer (c : Config) (id : List Byte) : List Byte :=
  0x0F#8 :: paradoxBody c id ++ [crc8Maxim (paradoxBody c id) ^^^ 0x06#8, c.paradoxTrailer]

/-- The nibble shift (R312): F[t] = Bb[(t+4) mod 96]. -/
def rotate4 (bits : List Bool) : List Bool := bits.drop 4 ++ bits.take 4

/-- FRAME_PARADOX (R313). -/
def frameParadox (c : Config) (id : List Byte) : List Bool := rotate4 (bitsOfBytes (paradoxBuffer c id))

/-- B[k] = BUF[95−8k : 88−8k] of a full buffer (R315). -/
def paradoxByte (buf : BitVec 96) (k : Nat) : Byte := buf.extractLsb' (88 - 8 * k) 8

/-- PARADOX_BIT (R315): the preamble search on a sliding 8-bit window, then 88 bits taken unchecked. -/
def paradoxBit (b : Bool) (S : Slot) : Fed :=
  let c := S.paradox
  match c.mode with
  | .search =>
    let sreg : BitVec 8 := c.sreg <<< 1 ||| (BitVec.ofBool b).zeroExtend 8
    let scnt := min (c.scnt.toNat + 1) 8
    if scnt = 8 ∧ sreg = 0x0F then
      ⟨{ S with paradox := ⟨.collect, sreg, BitVec.ofNat 4 scnt, 0x0F, 8⟩ }, none⟩
    else ⟨{ S with paradox := { c with sreg := sreg, scnt := BitVec.ofNat 4 scnt } }, none⟩
  | .collect =>
    let buf : BitVec 96 := c.buf <<< 1 ||| (BitVec.ofBool b).zeroExtend 96
    if c.bcnt.toNat + 1 < 96 then
      ⟨{ S with paradox := { c with buf := buf, bcnt := BitVec.ofNat 7 (c.bcnt.toNat + 1) } }, none⟩
    else ⟨{ S with paradox := ParadoxCodec.zero }, some ((List.range 6).map fun k => paradoxByte buf (k + 4))⟩

/-- FEED_PARADOX (R314). -/
def feedParadox (data : BitVec 16) (c : Config) (S : Slot) : Fed := feedFsk paradoxBit data c S

/-- FEED on a PARADOX slot (R123, R314): DONE carries UNVERIFIED. -/
def execFeedParadox (n : BitVec 4) (data : BitVec 16) (s : State) : Outcome :=
  feedOn .paradox (feedParadox data) n s

/-- MODULATE on a PARADOX slot (R125, R316). -/
def execModulateParadox (n : BitVec 4) (s : State) : Outcome :=
  modulateOn .paradox frameParadox (renderer .paradox) n s

/-- WRITE_T5577 on a PARADOX slot (R126, R317). -/
def execWriteT5577Paradox (n : BitVec 4) (s : State) : Outcome :=
  writeT5577On .paradox frameParadox n s

end Sys2Proof.Machine
end

