-- ==== Sys2Proof/Machine/Dispatch.lean ====
section
/-! DEFINITION. exec: one arm per row of the opcode table, each one call of its meaning. -/

namespace Sys2Proof.Machine

def exec (i : Instr) (s : State) : Host.Outcome State Fault Refusal :=
  match i with
  | .allocFdxb => Sys2Proof.Machine.execAllocFdxb s
  | .allocIndala => Sys2Proof.Machine.execAllocIndala s
  | .allocIoprox => Sys2Proof.Machine.execAllocIoprox s
  | .allocJablotron => Sys2Proof.Machine.execAllocJablotron s
  | .allocParadox => Sys2Proof.Machine.execAllocParadox s
  | .allocPac => Sys2Proof.Machine.execAllocPac s
  | .free slot => Sys2Proof.Machine.execFree slot s
  | .start slot fmt => Sys2Proof.Machine.execStart slot fmt s
  | .feedFdxb slot data => Sys2Proof.Machine.execFeedFdxb slot data s
  | .feedIndala64 slot data => Sys2Proof.Machine.execFeedIndala64 slot data s
  | .feedIndala224 slot data => Sys2Proof.Machine.execFeedIndala224 slot data s
  | .feedIoprox slot data => Sys2Proof.Machine.execFeedIoprox slot data s
  | .feedJablotron slot data => Sys2Proof.Machine.execFeedJablotron slot data s
  | .feedParadox slot data => Sys2Proof.Machine.execFeedParadox slot data s
  | .feedPac slot data => Sys2Proof.Machine.execFeedPac slot data s
  | .getData slot => Sys2Proof.Machine.execGetData slot s
  | .modulateFdxb slot => Sys2Proof.Machine.execModulateFdxb slot s
  | .modulateIndala64 slot => Sys2Proof.Machine.execModulateIndala64 slot s
  | .modulateIndala224 slot => Sys2Proof.Machine.execModulateIndala224 slot s
  | .modulateIoprox slot => Sys2Proof.Machine.execModulateIoprox slot s
  | .modulateJablotron slot => Sys2Proof.Machine.execModulateJablotron slot s
  | .modulateParadox slot => Sys2Proof.Machine.execModulateParadox slot s
  | .modulatePac slot => Sys2Proof.Machine.execModulatePac slot s
  | .writeT5577Fdxb slot => Sys2Proof.Machine.execWriteT5577Fdxb slot s
  | .writeT5577Indala64 slot => Sys2Proof.Machine.execWriteT5577Indala64 slot s
  | .writeT5577Indala224 slot => Sys2Proof.Machine.execWriteT5577Indala224 slot s
  | .writeT5577Ioprox slot => Sys2Proof.Machine.execWriteT5577Ioprox slot s
  | .writeT5577Jablotron slot => Sys2Proof.Machine.execWriteT5577Jablotron slot s
  | .writeT5577Paradox slot => Sys2Proof.Machine.execWriteT5577Paradox slot s
  | .writeT5577Pac slot => Sys2Proof.Machine.execWriteT5577Pac slot s
  | .genCrc16 len => Sys2Proof.Machine.execGenCrc16 len s
  | .genCrc8Maxim len => Sys2Proof.Machine.execGenCrc8Maxim len s
  | .genXor8 len => Sys2Proof.Machine.execGenXor8 len s
  | .genSumComp8 len => Sys2Proof.Machine.execGenSumComp8 len s
  | .genOddPar7 len => Sys2Proof.Machine.execGenOddPar7 len s

end Sys2Proof.Machine
end

