-- ==== Sys2Proof/Machine/HostPort.lean ====
section
/-! DEFINITION. The HOST's side of the block (20_memory.md): its accesses in order, the command word the
engine takes, and what each buffer reads as. -/

namespace Sys2Proof.Machine

/-- What the HOST did up to its next CMD write: the command word, if it writes one, and the state with
its earlier ID_IN writes and resets done, the CMD register written and its later accesses still to come.
"Each command sees every effect of every earlier command and of every earlier HOST write to ID_IN"
(R79). A reset gives every field the value of R400; the configuration is fixed for the life of the block
(R403) and the HOST's accesses go on (log 14). -/
def takeCommand : List HostAction → State → Option Word × State
  | [], s => (none, s.setHost [])
  | .writeCmd w :: rest, s => (some w, (s.setCmd w).setHost rest)
  | .writeIdIn k b :: rest, s => takeCommand rest (s.setIdIn k b)
  | .assertReset :: rest, s => takeCommand rest (State.resetWith s.cfg rest)

/-- The command word the engine takes next, and the state in which it runs (R78, R79). -/
def State.fetch (s : State) : Option Word × State := takeCommand s.host s

/-- A unit of a buffer as the HOST names it (R70). -/
inductive BufferUnit where
  | cmd
  | resp
  | idIn (k : Fin 28)
  | idOut (k : Fin 28)
  | wave (p : Prot) (i : Nat)
  | waveLen (p : Prot)
  | block (k : Fin 8)
  | blockCount
  deriving DecidableEq, Repr

/-- What a HOST read gives: one whole unit of the buffer (R76, R77). -/
inductive HostValue where
  | word (w : Word)
  | byte (b : Byte)
  | segment (g : Segment)
  | count16 (n : BitVec 16)
  | count4 (n : BitVec 4)
  deriving DecidableEq, Repr

/-- Segment i of WAVE[p]: the one MODULATE wrote, else (0,0) (R49, R125). -/
def State.waveAt (s : State) (p : Prot) (i : Nat) : Segment :=
  (s.waves[protCode p]).segs.getD i ⟨false, 0⟩

/-- A HOST read (R70): it has no side effect (R78). CMD is not readable, and WAVE[p] has WAVE_CAP[p]
segments. -/
def State.hostRead (s : State) : BufferUnit → Option HostValue
  | .cmd => none
  | .resp => some (.word s.resp)
  | .idIn k => some (.byte s.idIn[k])
  | .idOut k => some (.byte s.idOut[k])
  | .wave p i => if i < waveCap s.cfg p then some (.segment (s.waveAt p i)) else none
  | .waveLen p => some (.count16 (s.waves[protCode p]).len)
  | .block k => some (.word s.blocks[k])
  | .blockCount => some (.count4 s.blockCount)

/-- Byte j of a BLOCKS entry read as bytes: the most significant byte first (R76). -/
def blockByte (w : Word) (j : Fin 4) : Byte := w.extractLsb' (24 - 8 * j.val) 8

end Sys2Proof.Machine
end

