-- ==== Sys2Proof/Machine/Step.lean ====
section
/-! DEFINITION. One step: the engine executes the HOST's next command (R78, R79). -/

namespace Sys2Proof.Machine

/-- The status a word that is no command raises (R99, R373). -/
def statusOf : DecodeError → Status
  | .illegal => .illegal
  | .badProt => .badProt

/-- The engine executes a command word: the row it decodes to (R102), or the status it raises (R373). -/
def runWord (w : Word) (s : State) : Outcome :=
  match decode (s.variantAt (fieldSlot w)) w with
  | .ok i => exec i s
  | .error e => .next (s.raise (statusOf e))

/-- One step: the HOST's next command runs to completion, after the ID_IN writes and resets that precede
it. With no command to come the engine waits (R400). -/
def step (s : State) : Host.Outcome State Fault Refusal :=
  match s.fetch with
  | (some w, t) => runWord w t
  | (none, t) => .next t

/-- The HOST is going to write this word to CMD before anything else: the next step runs it (log 1). -/
def State.withFetchWord (s : State) (nbits w : Nat) : State :=
  { s with host := .writeCmd (BitVec.ofNat 32 (w % 2 ^ nbits)) :: s.host }

end Sys2Proof.Machine
end

