-- ==== Sys2Proof/Safety.lean ====
section
/-! DEFINITION. The terms the claims are stated in: the machine's invariant, the status R371 gives a
word, the real-number Goertzel power of R161, the ideal-timing stimulus of 95_test_vectors.md. None of
it is read by the machine. -/

namespace Sys2Proof.Machine

/-! ### The invariant of the reachable states -/

/-- The six protocols. -/
def allProts : List Prot := [.fdxb, .indala, .ioprox, .jablotron, .paradox, .pac]

/-- Bytes PAYLOAD..27 of a buffer are 0 (R35). -/
abbrev zeroFrom (buf : IdBytes) (n : Nat) : Prop := ∀ k : Fin 28, n ≤ k.val → buf[k] = 0

/-- The control fields (R34, R35): a free slot is all zero (R121), only INDALA has FORMAT 1 (R34),
ID_BUF is zero past the payload and while no frame is captured, and PAC captures none (R333). -/
abbrev Slot.controlOk (S : Slot) : Prop :=
  (S.alloc = false → S = Slot.free)
    ∧ (S.format = .l224 → S.prot = .indala)
    ∧ (S.dataValid = false → S.idBuf = IdBytes.zero)
    ∧ zeroFrom S.idBuf (payload S.variant)
    ∧ (S.prot = .pac → S.dataValid = false)

/-- The accumulators (R36, R37, R39): the counts stay in range, no bit stands above the count, and the
fields of another protocol stay 0. -/
abbrev Slot.accOk (S : Slot) : Prop :=
  (S.prot ≠ .fdxb → S.fdxb = FdxbCodec.zero)
    ∧ S.fdxb.cnt.toNat ≤ 128 ∧ S.fdxb.acc.toNat < 2 ^ S.fdxb.cnt.toNat
    ∧ (S.prot ≠ .indala → S.indala = IndalaCodec.zero)
    ∧ S.indala.cnt.toNat ≤ (if S.format = .l224 then 224 else 64)
    ∧ S.indala.acc.toNat < 2 ^ S.indala.cnt.toNat
    ∧ (S.prot ≠ .jablotron → S.jablotron = JablotronCodec.zero)
    ∧ S.jablotron.cnt.toNat ≤ 64 ∧ S.jablotron.acc.toNat < 2 ^ S.jablotron.cnt.toNat

/-- The IOPROX search (R38, R274): nothing is collected in SEARCH; in COLLECT a run of at least 8 zeros
was seen, 1 to 54 bits are collected, and the oldest of them is the terminating 1. -/
abbrev Slot.ioproxOk (S : Slot) : Prop :=
  (S.prot ≠ .ioprox → S.ioprox = IoproxCodec.zero)
    ∧ (S.ioprox.mode = .search → S.ioprox.win = 0 ∧ S.ioprox.wcnt = 0)
    ∧ (S.ioprox.mode = .collect → 8 ≤ S.ioprox.zrun.toNat ∧ 1 ≤ S.ioprox.wcnt.toNat
        ∧ S.ioprox.wcnt.toNat < 55 ∧ S.ioprox.win.toNat / 2 ^ (S.ioprox.wcnt.toNat - 1) = 1)

/-- The PARADOX search (R40, R315): nothing is collected in SEARCH; in COLLECT 8 to 95 bits are
collected and the oldest 8 of them are the preamble 0x0F. -/
abbrev Slot.paradoxOk (S : Slot) : Prop :=
  (S.prot ≠ .paradox → S.paradox = ParadoxCodec.zero)
    ∧ S.paradox.scnt.toNat ≤ 8 ∧ S.paradox.sreg.toNat < 2 ^ S.paradox.scnt.toNat
    ∧ (S.paradox.mode = .search → S.paradox.buf = 0 ∧ S.paradox.bcnt = 0)
    ∧ (S.paradox.mode = .collect → 8 ≤ S.paradox.bcnt.toNat ∧ S.paradox.bcnt.toNat < 96
        ∧ S.paradox.buf.toNat / 2 ^ (S.paradox.bcnt.toNat - 8) = 0x0F)

/-- The demodulators (R42 to R45): each window has its length, each count stays below it, the PSK count
is at least half a window once a window was seen, and the state of a demodulator the protocol does not
use stays 0. -/
abbrev Slot.demodOk (c : Config) (S : Slot) : Prop :=
  (S.prot ≠ .fdxb → S.prot ≠ .jablotron → S.sync = false)
    ∧ S.fsk.win.length = c.fskN S.prot ∧ S.fsk.cnt.toNat < max 1 (c.fskN S.prot)
    ∧ S.psk.win.length = c.pskWidth S.prot ∧ S.psk.cnt.toNat < max 1 (c.pskWidth S.prot)
    ∧ (S.psk.prevValid = true → c.pskWidth S.prot / 2 ≤ S.psk.cnt.toNat ∧ S.prot = .indala)
    ∧ (S.psk.prevValid = false → S.psk.prevSum = 0)

/-- Every field of a slot is as its rule keeps it. -/
def Slot.Inv (c : Config) (S : Slot) : Bool :=
  decide S.controlOk && decide S.accOk && decide S.ioproxOk && decide S.paradoxOk && decide (S.demodOk c)

/-- RESP (R97, R370): the reserved bits read 0, STATUS is a code of R370, UNVERIFIED comes with DONE and
DONE with STATUS OK. -/
abbrev respOk (r : Word) : Prop :=
  r.extractLsb' 6 2 = 0 ∧ r.extractLsb' 12 4 = 0 ∧ (respStatus r).toNat ≤ 8
    ∧ (respUnverified r = true → respDone r = true) ∧ (respDone r = true → respStatus r = 0)

/-- The output buffers (R49, R50, R356): WAVE_LEN counts the valid segments and never passes the
capacity; BLOCKS is 0 past BLOCK_COUNT. -/
abbrev State.buffersOk (s : State) : Prop :=
  (∀ p ∈ allProts, (s.waves[protCode p]).segs.length = (s.waves[protCode p]).len.toNat
      ∧ (s.waves[protCode p]).len.toNat ≤ waveCap s.cfg p)
    ∧ s.blockCount.toNat ≤ 8
    ∧ (∀ k : Fin 8, s.blockCount.toNat ≤ k.val → s.blocks[k] = 0)

/-- The machine's invariant: it holds after reset of every legal configuration, and every step keeps
it. -/
abbrev State.Inv (s : State) : Prop :=
  s.cfg.wf = true ∧ s.slots.length = s.cfg.numSlots ∧ (∀ S ∈ s.slots, S.Inv s.cfg = true)
    ∧ s.buffersOk ∧ respOk s.resp

/-! ### What a word does, by the spec's own tables -/

/-- The slot a row names, if it names one. -/
def Instr.slot? : Instr → Option (BitVec 4)
  | .free n | .start n _ | .getData n => some n
  | .feedFdxb n _ | .feedIndala64 n _ | .feedIndala224 n _ | .feedIoprox n _ | .feedJablotron n _ => some n
  | .feedParadox n _ | .feedPac n _ => some n
  | .modulateFdxb n | .modulateIndala64 n | .modulateIndala224 n | .modulateIoprox n => some n
  | .modulateJablotron n | .modulateParadox n | .modulatePac n => some n
  | .writeT5577Fdxb n | .writeT5577Indala64 n | .writeT5577Indala224 n | .writeT5577Ioprox n => some n
  | .writeT5577Jablotron n | .writeT5577Paradox n | .writeT5577Pac n => some n
  | .allocFdxb | .allocIndala | .allocIoprox | .allocJablotron | .allocParadox | .allocPac => none
  | .genCrc16 _ | .genCrc8Maxim _ | .genXor8 _ | .genSumComp8 _ | .genOddPar7 _ => none

/-- Field values E_ILLEGAL answers, read off R91 and R99: a reserved OP, a nonzero field that must be 0
for the OP, a reserved GSEL. -/
abbrev illegalFields (op sel slot fmt data : Nat) : Prop :=
  8 ≤ op
    ∨ (op = 0 ∧ (slot ≠ 0 ∨ fmt ≠ 0 ∨ data ≠ 0))
    ∨ (op = 2 ∧ (sel ≠ 0 ∨ data ≠ 0))
    ∨ (op = 3 ∧ (sel ≠ 0 ∨ fmt ≠ 0))
    ∨ ((op = 1 ∨ op = 4 ∨ op = 5 ∨ op = 6) ∧ (sel ≠ 0 ∨ fmt ≠ 0 ∨ data ≠ 0))
    ∨ (op = 7 ∧ (slot ≠ 0 ∨ fmt ≠ 0 ∨ data / 256 ≠ 0 ∨ 5 ≤ sel))

/-- A command word E_ILLEGAL answers; the fields are those of R91, read off the word's number. -/
abbrev illegalWord (w : Nat) : Prop :=
  illegalFields (w / 2 ^ 28) (w / 2 ^ 24 % 16) (w / 2 ^ 20 % 16) (w / 2 ^ 16 % 16) (w % 2 ^ 16)

/-- The status number R371 gives field values in a state: the first that applies in its list. `S` is the
slot the word names. -/
def specStatusOf (slots : List Slot) (S : Option Slot) (op sel slot fmt data : Nat) : Nat :=
  if illegalFields op sel slot fmt data then 1
  else if op = 0 ∧ 5 < sel then 2
  else if op = 0 ∧ ∀ T ∈ slots, T.alloc = true then 3
  else if (2 ≤ op ∧ op ≤ 6) ∧ S.any (·.alloc) = false then 4
  else if op = 2 ∧ ¬ (fmt = 0 ∨ (fmt = 1 ∧ S.map (·.prot) = some .indala)) then 5
  else if op = 7 ∧ (28 < data % 256 ∨ (sel = 4 ∧ data % 256 ≠ 1)) then 8
  else if op = 3 ∧ S.map (·.prot) = some .pac then 6
  else if op = 4 ∧ S.any (·.dataValid) = false then 7
  else 0

/-- The status number R371 gives a command word in a state. -/
def specStatus (s : State) (w : Nat) : Nat :=
  specStatusOf s.slots s.slots[w / 2 ^ 20 % 16]? (w / 2 ^ 28) (w / 2 ^ 24 % 16) (w / 2 ^ 20 % 16)
    (w / 2 ^ 16 % 16) (w % 2 ^ 16)

/-- The layout function of a variant (R125, R126). -/
def frameOf (v : Variant) (c : Config) (id : List Byte) : List Bool :=
  match v with
  | .fdxb => frameFdxb id
  | .indala64 => frameIndala64 c.indala id
  | .indala224 => frameIndala224 id
  | .ioprox => frameIoprox id
  | .jablotron => frameJablotron id
  | .paradox => frameParadox c id
  | .pac => framePac c id

/-- Identifiers FDXB decode writes: the "valid identifiers" of R220. -/
def fdxbValid (id : List Byte) : Prop :=
  id.length = 16 ∧ (byteAt id 0).toNat ≤ 0x3F ∧ (byteAt id 5).toNat ≤ 0x03 ∧ (byteAt id 7).toNat ≤ 1
    ∧ (byteAt id 8).toNat ≤ 1 ∧ ∀ k, 11 ≤ k → k ≤ 15 → byteAt id k = 0

/-- BP_STIM (95_test_vectors.md): one HALF interval to gain sync, then HALF for 1 and FULL for 0. -/
def bpStim (F : List Bool) : List (BitVec 16) := 16 :: F.map fun b => if b then 16 else 32

/-- The HOST feeds the values to slot n, one FEED word each. -/
def feedWords (n : BitVec 4) (xs : List (BitVec 16)) : List HostAction :=
  xs.map fun x => .writeCmd (packWord 3 0 n 0 x)

/-- A codec's bit rule run over a bit sequence: the slot left, and the identifiers captured, in order. -/
def feedBits (onBit : Bool → Slot → Fed) : List Bool → Slot → Slot × List (List Byte)
  | [], S => (S, [])
  | b :: F, S =>
    let r := onBit b S
    let rest := feedBits onBit F r.slot
    (rest.1, r.id.toList ++ rest.2)

/-- FSK_STEP run over a sequence of samples: the demodulator left, and the bits emitted, in order. -/
def fskRun (n eps : Nat) : List (BitVec 16) → FskDemod → FskDemod × List Bool
  | [], d => (d, [])
  | x :: xs, d =>
    let r := fskStep n eps d x
    let rest := fskRun n eps xs r.1
    (rest.1, r.2.toList ++ rest.2)

/-! ### The Goertzel power in real arithmetic (R161) -/

/-- GOERTZEL(x, w) of R161 in exact real arithmetic. -/
noncomputable def goertzelReal (x : List Int) (w : ℝ) : ℝ :=
  let c := 2 * Real.cos w
  let st := x.foldl (fun (st : ℝ × ℝ) (n : Int) => ((n : ℝ) + c * st.1 - st.2, st.1)) (0, 0)
  st.1 ^ 2 + st.2 ^ 2 - c * st.1 * st.2

/-- FSK_W_HI = 2π/8 and FSK_W_LO = 2π/10 (R9, R162). -/
noncomputable def fskWHi : ℝ := 2 * Real.pi / 8
noncomputable def fskWLo : ℝ := 2 * Real.pi / 10

end Sys2Proof.Machine
end

