-- ==== Sys2Proof/Certificates/Slice0/Obligations.lean ====
section
/-! DEFINITION. The statements for the provers. Each docstring names the rule of spec/ it formalises.

Throughout, `s.slots[n.toNat]? = some S` with `S.alloc = true` says that n names an allocated slot (R34),
`packWord`'s words are R100's, and a frame is said by a record equation: `t = { s with resp := t.resp }`
says that nothing but RESP differs. -/

open Sys2Proof Sys2Proof.Machine

/-! ## Encoding -/

/-- Every instruction, in a slot that selects its row (R102), is what its word decodes to: no operand
bit is dropped (R91 to R94). -/
def Obligations.DecodeOfEncodeGivesTheInstruction : Prop :=
  ∀ (v : Variant) (i : Instr), i.selectedBy v = true → decode v (encode i) = .ok i

/-- A word that decodes is the word of the instruction it decodes to: decoding loses no bit, so two
words never decode to one instruction. -/
def Obligations.EncodeOfDecodeGivesTheWord : Prop :=
  ∀ (v : Variant) (w : Word) (i : Instr), decode v w = .ok i → encode i = w ∧ i.selectedBy v = true

/-- R99: a reserved OP, a nonzero field that must be 0, a reserved GSEL and GEN with DATA[15:8] ≠ 0 raise
E_ILLEGAL (1); PROT 6..15 raises E_BAD_PROT (2); no effect other than RESP. Every other word is a command
of the table. The fields are read off the word's number. CMD and the HOST's list (log 1, the model's own) move because the HOST wrote the word. -/
def Obligations.IllegalWordsHaveNoEffectButTheirStatus : Prop :=
  ∀ (s : State) (w : Word) (rest : List HostAction), s.host = .writeCmd w :: rest →
    (illegalWord w.toNat →
        step s = .next { s with cmd := w, host := rest, resp := 1 })
    ∧ (¬ illegalWord w.toNat → w.toNat / 2 ^ 28 = 0 → 6 ≤ w.toNat / 2 ^ 24 % 16 →
        step s = .next { s with cmd := w, host := rest, resp := 2 })
    ∧ (¬ illegalWord w.toNat → (w.toNat / 2 ^ 28 = 0 → w.toNat / 2 ^ 24 % 16 ≤ 5) →
        ∀ v, ∃ i, decode v w = .ok i)

/-- A few words written out from R91 to R94, with the instruction each stands for. -/
def Obligations.WordsOfTheTableDecode : Prop :=
  decode .fdxb 0x03000000 = .ok .allocJablotron ∧ decode .fdxb 0x10500000 = .ok (.free 5)
    ∧ decode .indala64 0x20110000 = .ok (.start 1 1) ∧ decode .indala224 0x3010FFFE = .ok (.feedIndala224 1 0xFFFE)
    ∧ decode .pac 0x40F00000 = .ok (.getData 15) ∧ decode .ioprox 0x50000000 = .ok (.modulateIoprox 0)
    ∧ decode .paradox 0x60300000 = .ok (.writeT5577Paradox 3) ∧ decode .pac 0x7300001C = .ok (.genSumComp8 28)
    ∧ decode .fdxb 0x80000000 = .error .illegal ∧ decode .fdxb 0x07100000 = .error .illegal
    ∧ decode .fdxb 0x07000000 = .error .badProt

/-- R97 and R370: every field of RESP reads back what was put in it, the reserved bits read 0, and the
status numbers are those of the table. -/
def Obligations.ResponseFieldsReadBack : Prop :=
  (∀ (e : Status) (done unverified : Bool) (handle : BitVec 4) (result : BitVec 16),
    let r := respWord e done unverified handle result
    respStatus r = e.code ∧ respDone r = done ∧ respUnverified r = unverified ∧ respHandle r = handle
      ∧ respResult r = result ∧ r.extractLsb' 6 2 = 0 ∧ r.extractLsb' 12 4 = 0)
  ∧ [Status.ok, .illegal, .badProt, .noSlot, .notAllocated, .badFormat, .unsupported, .dataNotValid, .badLen].map
      (fun e => e.code.toNat) = [0, 1, 2, 3, 4, 5, 6, 7, 8]

/-! ## The step -/

/-- A step runs the decoded instruction: when the HOST's next access is a CMD write whose word decodes, in
the row the slot it names selects (R102), to i, the step is exec of i, with CMD holding the word and the
HOST's list moved on (log 1: the list is the model's own). -/
def Obligations.StepRunsTheDecodedInstruction : Prop :=
  ∀ (s : State) (w : Word) (rest : List HostAction) (i : Instr), s.host = .writeCmd w :: rest →
    decode (s.variantAt (fieldSlot w)) w = .ok i →
    step s = exec i { s with cmd := w, host := rest }

/-- R79 and R400, as the model reads them (log 1, log 14, log 15): an ID_IN write or a reset that comes
before the command is done before it runs, and with no access to come the engine waits. -/
def Obligations.HostAccessesComeBeforeTheCommand : Prop :=
  ∀ (s : State) (rest : List HostAction),
    (∀ (k : Fin 28) (b : Byte), s.host = .writeIdIn k b :: rest →
      step s = step { s with idIn := s.idIn.set k b, host := rest })
    ∧ (s.host = .assertReset :: rest → step s = step (State.resetWith s.cfg rest))
    ∧ (s.host = [] → step s = .next s)

/-- R373, R374: every step of every state answers a next state. No word halts the engine, no error is
fatal, and no row is run on a slot that does not select it. -/
def Obligations.StepAlwaysAnswersANextState : Prop :=
  ∀ s : State, ∃ t, step s = .next t

/-- R372: a command that raises an error writes RESP with every other field 0 and changes nothing else,
whatever the command and the state. -/
def Obligations.ErrorsArePrecise : Prop :=
  ∀ (s t : State) (w : Word) (rest : List HostAction), s.host = .writeCmd w :: rest → step s = .next t →
    respStatus t.resp ≠ 0 →
    t = { s with cmd := w, host := rest, resp := (respStatus t.resp).zeroExtend 32 }

/-- R371: the status of a command is the first of the list that applies, in every state and for every
word (`specStatus` reads the list off the word's number and the slots). -/
def Obligations.StatusFollowsThePriorityList : Prop :=
  ∀ (s : State) (w : Word) (rest : List HostAction), s.host = .writeCmd w :: rest →
    ∃ t, step s = .next t ∧ (respStatus t.resp).toNat = specStatus s w.toNat

/-- Every step keeps the machine's invariant (10_state.md, R97, R356): from every state that has it, not
only the reachable ones. Its window lengths and its bounds on the counts are the model's reading of R44 and
R45 (log 8, log 10), its WAVE clause that of R49 (log 11). -/
def Obligations.StepKeepsTheInvariant : Prop :=
  ∀ s t : State, s.Inv → step s = .next t → t.Inv

/-- The invariant holds after reset, for every legal configuration (R359) and whatever the HOST is going
to do. -/
def Obligations.ResetHasTheInvariant : Prop :=
  ∀ (c : Config) (h : List HostAction), c.wf = true → (State.resetWith c h).Inv

/-- R400: the values after reset, for every configuration: NUM_SLOTS slots, every field of each 0 (free,
SEARCH, non-sync), RESP, ID_IN, ID_OUT, WAVE, WAVE_LEN, BLOCKS and BLOCK_COUNT 0. (The value of CMD after
reset is the model's choice, log 2, and no part of this.) -/
def Obligations.ResetLeavesTheValuesOfTheTable : Prop :=
  ∀ (c : Config) (h : List HostAction),
    let r := State.resetWith c h
    r.slots.length = c.numSlots
    ∧ (∀ S ∈ r.slots, S.alloc = false ∧ S.prot = .fdxb ∧ S.format = .l64 ∧ S.dataValid = false
        ∧ (∀ k : Fin 28, S.idBuf[k] = 0) ∧ S.fdxb = ⟨0, 0⟩ ∧ S.indala = ⟨0, 0⟩ ∧ S.ioprox = ⟨.search, 0, 0, 0⟩
        ∧ S.jablotron = ⟨0, 0⟩ ∧ S.paradox = ⟨.search, 0, 0, 0, 0⟩ ∧ S.sync = false
        ∧ (∀ x ∈ S.fsk.win, x = 0) ∧ S.fsk.cnt = 0
        ∧ (∀ x ∈ S.psk.win, x = 0) ∧ S.psk.cnt = 0 ∧ S.psk.prevValid = false ∧ S.psk.prevSum = 0)
    ∧ r.resp = 0 ∧ (∀ k : Fin 28, r.idIn[k] = 0 ∧ r.idOut[k] = 0)
    ∧ (∀ p i, r.waveAt p i = ⟨false, 0⟩) ∧ (∀ p, (r.waves[protCode p]).len = 0)
    ∧ (∀ k : Fin 8, r.blocks[k] = 0) ∧ r.blockCount = 0

/-- R47, R403: no command writes ID_IN or the configuration, and none adds or removes a slot (R34). -/
def Obligations.NoCommandWritesIdInOrTheConfiguration : Prop :=
  ∀ (i : Instr) (s t : State), exec i s = .next t →
    t.idIn = s.idIn ∧ t.cfg = s.cfg ∧ t.slots.length = s.slots.length ∧ t.cmd = s.cmd ∧ t.host = s.host

/-- R48 to R50, R31: only GET_DATA writes ID_OUT, only MODULATE on a slot of protocol p writes WAVE[p] and
WAVE_LEN[p], only WRITE_T5577 writes BLOCKS and BLOCK_COUNT, and only ALLOC, FREE, START and FEED write
slot fields. -/
def Obligations.OutputBuffersHaveOneWriter : Prop :=
  ∀ (i : Instr) (s t : State), exec i s = .next t →
    (t.idOut ≠ s.idOut → ∃ n, i = .getData n)
    ∧ (∀ p, t.waves[protCode p] ≠ s.waves[protCode p] → ∃ v n, variantProt v = p ∧ i = modulateRow v n)
    ∧ (t.blocks ≠ s.blocks ∨ t.blockCount ≠ s.blockCount → ∃ v n, i = writeRow v n)
    ∧ (t.slots ≠ s.slots →
        i ∈ [.allocFdxb, .allocIndala, .allocIoprox, .allocJablotron, .allocParadox, .allocPac]
          ∨ (∃ n, i = .free n) ∨ (∃ n fmt, i = .start n fmt) ∨ ∃ v n d, i = feedRow v n d)

/-- R53: a command changes no slot but the one it names; ALLOC changes none but a free one. -/
def Obligations.SlotsAreIsolated : Prop :=
  ∀ (i : Instr) (s t : State) (m : Nat), exec i s = .next t → t.slots[m]? ≠ s.slots[m]? →
    (∃ n, Instr.slot? i = some n ∧ n.toNat = m)
      ∨ (i ∈ [.allocFdxb, .allocIndala, .allocIoprox, .allocJablotron, .allocParadox, .allocPac]
          ∧ ∃ S, s.slots[m]? = some S ∧ S.alloc = false)

/-- R52: the results of a sequence of FEEDs on a slot depend on that slot's state and the values fed, and
on nothing else: two machines of one configuration that agree on the slot answer the same RESP and leave
the same slot, whatever their other slots, buffers and registers hold. -/
def Obligations.FeedResultsDependOnTheSlotAlone : Prop :=
  ∀ (n : BitVec 4) (xs : List (BitVec 16)) (s t : State), xs ≠ [] → s.cfg = t.cfg →
    s.slots[n.toNat]? = t.slots[n.toNat]? → s.host = feedWords n xs → t.host = feedWords n xs →
    ∃ s' t' : State, Host.Core.run Sys2Proof.core xs.length s = .next s'
      ∧ Host.Core.run Sys2Proof.core xs.length t = .next t'
      ∧ s'.resp = t'.resp ∧ s'.slots[n.toNat]? = t'.slots[n.toNat]?

/-! ## Descriptor operations -/

/-- R120: ALLOC FDXB, INDALA, IOPROX, JABLOTRON, PARADOX and PAC take the least free slot, set S.ALLOC and
S.PROT and every other field of R34 to R45 to 0, and answer its number in HANDLE. The windows of the
demodulator the protocol uses have their length (R44, R45; log 10). Nothing else changes. -/
def Obligations.AllocZeroesTheLeastFreeSlot : Prop :=
  ∀ ip ∈ [(Instr.allocFdxb, Prot.fdxb), (.allocIndala, .indala), (.allocIoprox, .ioprox),
      (.allocJablotron, .jablotron), (.allocParadox, .paradox), (.allocPac, .pac)],
  ∀ (s : State) (n : Nat) (S : Slot), n < 16 → s.slots[n]? = some S → S.alloc = false →
    (∀ (m : Nat) (T : Slot), m < n → s.slots[m]? = some T → T.alloc = true) →
    exec ip.1 s = .next { s with
      slots := s.slots.set n
        { alloc := true, prot := ip.2, format := .l64, dataValid := false, idBuf := Vector.replicate 28 0
          fdxb := ⟨0, 0⟩, indala := ⟨0, 0⟩, ioprox := ⟨.search, 0, 0, 0⟩, jablotron := ⟨0, 0⟩
          paradox := ⟨.search, 0, 0, 0, 0⟩, sync := false
          fsk := ⟨List.replicate (s.cfg.fskN ip.2) 0, 0⟩
          psk := ⟨List.replicate (s.cfg.pskWidth ip.2) 0, 0, false, 0⟩ }
      resp := BitVec.ofNat 32 (256 * n) }

/-- R121: FREE sets every field of an allocated slot to 0; on a slot that is not allocated, or a slot
number at or above NUM_SLOTS, nothing changes; STATUS is OK both times. -/
def Obligations.FreeClearsAnAllocatedSlot : Prop :=
  ∀ (s : State) (n : BitVec 4),
    (∀ S, s.slots[n.toNat]? = some S → S.alloc = true →
      exec (.free n) s = .next { s with
        slots := s.slots.set n.toNat
          { alloc := false, prot := .fdxb, format := .l64, dataValid := false, idBuf := Vector.replicate 28 0
            fdxb := ⟨0, 0⟩, indala := ⟨0, 0⟩, ioprox := ⟨.search, 0, 0, 0⟩, jablotron := ⟨0, 0⟩
            paradox := ⟨.search, 0, 0, 0, 0⟩, sync := false, fsk := ⟨[], 0⟩, psk := ⟨[], 0, false, 0⟩ }
        resp := 0 })
    ∧ ((∀ S, s.slots[n.toNat]? = some S → S.alloc = false) →
      exec (.free n) s = .next { s with resp := 0 })

/-- R122, R95: START with FMT 0, or FMT 1 on INDALA, sets every codec and demodulator field, ID_BUF and
DATA_VALID to 0 and FORMAT to FMT, and keeps ALLOC and PROT; any other FMT raises E_BAD_FORMAT (5); a
slot that is not allocated raises E_NOT_ALLOCATED (4). -/
def Obligations.StartResetsTheSlot : Prop :=
  ∀ (s : State) (n fmt : BitVec 4),
    (∀ S, s.slots[n.toNat]? = some S → S.alloc = true → (fmt = 0 ∨ (fmt = 1 ∧ S.prot = .indala)) →
      exec (.start n fmt) s = .next { s with
        slots := s.slots.set n.toNat
          { alloc := true, prot := S.prot, format := (if fmt = 0 then .l64 else .l224), dataValid := false
            idBuf := Vector.replicate 28 0
            fdxb := ⟨0, 0⟩, indala := ⟨0, 0⟩, ioprox := ⟨.search, 0, 0, 0⟩, jablotron := ⟨0, 0⟩
            paradox := ⟨.search, 0, 0, 0, 0⟩, sync := false
            fsk := ⟨List.replicate (s.cfg.fskN S.prot) 0, 0⟩
            psk := ⟨List.replicate (s.cfg.pskWidth S.prot) 0, 0, false, 0⟩ }
        resp := 0 })
    ∧ (∀ S, s.slots[n.toNat]? = some S → S.alloc = true → fmt ≠ 0 → (fmt ≠ 1 ∨ S.prot ≠ .indala) →
      exec (.start n fmt) s = .next { s with resp := 5 })
    ∧ ((∀ S, s.slots[n.toNat]? = some S → S.alloc = false) →
      exec (.start n fmt) s = .next { s with resp := 4 })

/-- R402: two STARTs in a row with one FMT leave identical state; with any command between them but FEED
and FREE on that slot, they leave the slot identical. The slot START leaves depends on FMT alone, in one
configuration and on slots of one protocol. -/
def Obligations.StartIsIdempotent : Prop :=
  ∀ (s t u w : State) (n fmt : BitVec 4) (i : Instr), exec (.start n fmt) s = .next t → respStatus t.resp = 0 →
    exec (.start n fmt) t = .next t
    ∧ ((∀ v d, i ≠ feedRow v n d) → i ≠ .free n → exec i t = .next u → exec (.start n fmt) u = .next w →
        w.slots[n.toNat]? = t.slots[n.toNat]?)
    ∧ (∀ s' t' : State, exec (.start n fmt) s' = .next t' → respStatus t'.resp = 0 → s'.cfg = s.cfg →
        (s'.slots[n.toNat]?).map (·.prot) = (s.slots[n.toNat]?).map (·.prot) →
        t'.slots[n.toNat]? = t.slots[n.toNat]?)

/-- R401: ALLOC leaves exactly the slot that START with FMT 0 gives it, so every FEED after ALLOC and after
ALLOC; START 0 behaves the same. -/
def Obligations.AllocLeavesTheStateOfStartZero : Prop :=
  ∀ i ∈ [Instr.allocFdxb, .allocIndala, .allocIoprox, .allocJablotron, .allocParadox, .allocPac],
  ∀ (s t u : State) (n : BitVec 4), exec i s = .next t → respStatus t.resp = 0 → respHandle t.resp = n →
    s.slots.length ≤ 16 → exec (.start n 0) t = .next u →
    u.slots = t.slots ∧ ∀ v d, exec (feedRow v n d) u = exec (feedRow v n d) t

/-- R124: GET_DATA on a slot with DATA_VALID copies ID_BUF[0..PAYLOAD−1] to ID_OUT, zeros behind them, and
answers PAYLOAD in RESULT; without DATA_VALID it raises E_DATA_NOT_VALID (7). -/
def Obligations.GetDataCopiesTheIdentifier : Prop :=
  ∀ (s : State) (n : BitVec 4) (S : Slot), s.slots[n.toNat]? = some S → S.alloc = true →
    (S.dataValid = true → ∃ t, exec (.getData n) s = .next t
      ∧ t = { s with idOut := t.idOut, resp := BitVec.ofNat 32 (65536 * payload S.variant) }
      ∧ ∀ k : Fin 28, t.idOut[k] = if k.val < payload S.variant then S.idBuf[k] else 0)
    ∧ (S.dataValid = false → exec (.getData n) s = .next { s with resp := 7 })

/-- R333: FEED on a PAC slot raises E_UNSUPPORTED (6) and changes nothing else; GET_DATA on a PAC slot
always raises E_DATA_NOT_VALID (7), in every state that has the invariant. -/
def Obligations.PacIsNeverDecoded : Prop :=
  ∀ (s : State) (n : BitVec 4) (d : BitVec 16) (S : Slot), s.slots[n.toNat]? = some S → S.alloc = true →
    S.prot = .pac →
    exec (.feedPac n d) s = .next { s with resp := 6 }
    ∧ (s.Inv → exec (.getData n) s = .next { s with resp := 7 })

/-! ## Demodulators and FEED -/

/-- R150, at the values of R9: HALF for 8..23, FULL for 24..39, ONEHALF for 40..55, INVALID elsewhere. -/
def Obligations.BiphaseWindowsTile : Prop :=
  ∀ i : Nat, (bpClassify i = .half ↔ 8 ≤ i ∧ i ≤ 23) ∧ (bpClassify i = .full ↔ 24 ≤ i ∧ i ≤ 39)
    ∧ (bpClassify i = .oneHalf ↔ 40 ≤ i ∧ i ≤ 55) ∧ (bpClassify i = .invalid ↔ i ≤ 7 ∨ 56 ≤ i)

/-- R151: the transition table, by the class of the interval. The state ALLOC and START leave is non-sync,
and the first HALF emits nothing. -/
def Obligations.BiphaseTransitionTable : Prop :=
  ∀ (sync : Bool) (i : Nat),
    (bpClassify i = .invalid → bpStep sync i = ⟨none, true, true⟩)
    ∧ (bpClassify i = .half → bpStep true i = ⟨some true, false, true⟩ ∧ bpStep false i = ⟨none, false, true⟩)
    ∧ (bpClassify i = .full → bpStep sync i = ⟨some false, false, true⟩)
    ∧ (bpClassify i = .oneHalf → bpStep true i = ⟨some true, false, false⟩ ∧ bpStep false i = ⟨none, true, true⟩)
    ∧ ∀ (c : Config) (p : Prot) (f : Layout), (Slot.fresh c p f).sync = false ∧ bpStep false 16 = ⟨none, false, true⟩

/-- R224, R225, R150 to R152, R127, for every interval: FEED on an FDXB slot. A reset clears the accumulator; a
HALF out of sync is silent; any other interval shifts one bit in, and the full window with header 0x001
and CRC field 0xE139 is captured: its 66 data bits, the stuff bits S[9m+8] left out whatever they are, are
written to ID_BUF as the fields of R225 and the codec is re-armed. -/
def Obligations.FeedFdxbFollowsItsRule : Prop :=
  ∀ (s : State) (n : BitVec 4) (d : BitVec 16) (S : Slot), s.slots[n.toNat]? = some S → S.alloc = true →
    S.prot = .fdxb →
    ((d.toNat ≤ 7 ∨ 56 ≤ d.toNat ∨ (S.sync = false ∧ 40 ≤ d.toNat)) →
      exec (.feedFdxb n d) s = .next { s with
        slots := s.slots.set n.toNat { S with sync := true, fdxb := ⟨0, 0⟩ }, resp := 0 })
    ∧ (S.sync = false → 8 ≤ d.toNat → d.toNat ≤ 23 →
      exec (.feedFdxb n d) s = .next { s with
        slots := s.slots.set n.toNat { S with sync := true }, resp := 0 })
    ∧ (∀ b y : Bool,
      ((S.sync = true ∧ 8 ≤ d.toNat ∧ d.toNat ≤ 23 ∧ b = true ∧ y = true)
        ∨ (24 ≤ d.toNat ∧ d.toNat ≤ 39 ∧ b = false ∧ y = true)
        ∨ (S.sync = true ∧ 40 ≤ d.toNat ∧ d.toNat ≤ 55 ∧ b = true ∧ y = false)) →
      let acc := (2 * S.fdxb.acc.toNat + b.toNat) % 2 ^ 128
      let cnt := min (S.fdxb.cnt.toNat + 1) 128
      let F := bitsOf 128 acc
      let D := ((List.range 74).filter fun t => t % 9 ≠ 8).map (bitAt (slice F 11 53 ++ slice F 80 21))
      let nat := val (slice D 0 38)
      let cc := val (slice D 38 10)
      let res := val (slice D 50 16)
      let id := [nat / 2 ^ 32, nat / 2 ^ 24, nat / 2 ^ 16, nat / 2 ^ 8, nat, cc / 2 ^ 8, cc, (bitAt D 48).toNat,
        (bitAt D 49).toNat, res / 2 ^ 8, res].map (BitVec.ofNat 8)
      if cnt = 128 ∧ acc / 2 ^ 117 = 0x001 ∧ acc / 2 ^ 48 % 2 ^ 16 = 0xE139 then
        exec (.feedFdxb n d) s = .next { s with
          slots := s.slots.set n.toNat { S with
            sync := y, fdxb := ⟨0, 0⟩, dataValid := true, idBuf := padId id }
          resp := 0x10 }
      else
        exec (.feedFdxb n d) s = .next { s with
          slots := s.slots.set n.toNat { S with sync := y, fdxb := ⟨BitVec.ofNat 128 acc, BitVec.ofNat 8 cnt⟩ }
          resp := 0 })

/-- R293, R150 to R152, R127, for every interval: FEED on a JABLOTRON slot. The full window with preamble
0xFFFF and the checksum of its five bytes is captured. -/
def Obligations.FeedJablotronFollowsItsRule : Prop :=
  ∀ (s : State) (n : BitVec 4) (d : BitVec 16) (S : Slot), s.slots[n.toNat]? = some S → S.alloc = true →
    S.prot = .jablotron →
    ((d.toNat ≤ 7 ∨ 56 ≤ d.toNat ∨ (S.sync = false ∧ 40 ≤ d.toNat)) →
      exec (.feedJablotron n d) s = .next { s with
        slots := s.slots.set n.toNat { S with sync := true, jablotron := ⟨0, 0⟩ }, resp := 0 })
    ∧ (S.sync = false → 8 ≤ d.toNat → d.toNat ≤ 23 →
      exec (.feedJablotron n d) s = .next { s with
        slots := s.slots.set n.toNat { S with sync := true }, resp := 0 })
    ∧ (∀ b y : Bool,
      ((S.sync = true ∧ 8 ≤ d.toNat ∧ d.toNat ≤ 23 ∧ b = true ∧ y = true)
        ∨ (24 ≤ d.toNat ∧ d.toNat ≤ 39 ∧ b = false ∧ y = true)
        ∨ (S.sync = true ∧ 40 ≤ d.toNat ∧ d.toNat ≤ 55 ∧ b = true ∧ y = false)) →
      let acc := (2 * S.jablotron.acc.toNat + b.toNat) % 2 ^ 64
      let cnt := min (S.jablotron.cnt.toNat + 1) 64
      let id := [4, 3, 2, 1, 0].map fun k => BitVec.ofNat 8 (acc / 2 ^ (8 + 8 * k))
      if cnt = 64 ∧ acc / 2 ^ 48 = 0xFFFF
          ∧ BitVec.ofNat 8 acc = id[0]! ^^^ id[1]! ^^^ id[2]! ^^^ id[3]! ^^^ id[4]! ^^^ 0x3A then
        exec (.feedJablotron n d) s = .next { s with
          slots := s.slots.set n.toNat { S with
            sync := y, jablotron := ⟨0, 0⟩, dataValid := true, idBuf := padId id }
          resp := 0x10 }
      else
        exec (.feedJablotron n d) s = .next { s with
          slots := s.slots.set n.toNat { S with sync := y, jablotron := ⟨BitVec.ofNat 64 acc, BitVec.ofNat 7 cnt⟩ }
          resp := 0 })

/-- R123, R127, R97, for FEED.FDXB, FEED.INDALA64, FEED.INDALA224, FEED.IOPROX, FEED.JABLOTRON and
FEED.PARADOX: on an allocated slot of the variant, every operand completes with STATUS OK. Only the slot
and RESP change; in the slot only the variant's own codec and demodulator, and on a capture ID_BUF (zero
past the payload) and DATA_VALID, with the codec at its START values. DONE is 1 exactly on a capture, and
UNVERIFIED with it for PARADOX and INDALA224. -/
def Obligations.FeedAdvancesOnlyItsOwnSlot : Prop :=
  ∀ (v : Variant) (s : State) (n : BitVec 4) (d : BitVec 16) (S : Slot), v ≠ .pac →
    s.slots[n.toNat]? = some S → S.alloc = true → S.variant = v →
    ∃ (T : Slot) (done : Bool),
      exec (feedRow v n d) s = .next { s with
        slots := s.slots.set n.toNat T
        resp := if done then (if v = .paradox ∨ v = .indala224 then 0x30 else 0x10) else 0 }
      ∧ T.alloc = true ∧ T.prot = S.prot ∧ T.format = S.format
      ∧ (v ≠ .fdxb → T.fdxb = S.fdxb) ∧ (v ≠ .indala64 → v ≠ .indala224 → T.indala = S.indala ∧ T.psk = S.psk)
      ∧ (v ≠ .ioprox → T.ioprox = S.ioprox) ∧ (v ≠ .jablotron → T.jablotron = S.jablotron)
      ∧ (v ≠ .paradox → T.paradox = S.paradox) ∧ (v ≠ .fdxb → v ≠ .jablotron → T.sync = S.sync)
      ∧ (v ≠ .ioprox → v ≠ .paradox → T.fsk = S.fsk)
      ∧ (done = false → T.idBuf = S.idBuf ∧ T.dataValid = S.dataValid)
      ∧ (done = true → T.dataValid = true ∧ zeroFrom T.idBuf (payload v)
          ∧ (v = .fdxb → T.fdxb = ⟨0, 0⟩) ∧ (v = .indala64 ∨ v = .indala224 → T.indala = ⟨0, 0⟩)
          ∧ (v = .ioprox → T.ioprox = ⟨.search, 0, 0, 0⟩) ∧ (v = .jablotron → T.jablotron = ⟨0, 0⟩)
          ∧ (v = .paradox → T.paradox = ⟨.search, 0, 0, 0, 0⟩))

/-- R245, R249, R273, R314: FEED of a sample on an INDALA, IOPROX or PARADOX slot runs the demodulator's
step on the window and, on an emitted bit, the codec's bit rule. -/
def Obligations.FeedOfASampleRunsDemodulatorThenCodec : Prop :=
  ∀ (s : State) (n : BitVec 4) (d : BitVec 16) (S : Slot), s.slots[n.toNat]? = some S → S.alloc = true →
    let fed (demod : Slot × Option Bool) (onBit : Bool → Slot → Fed) : Fed :=
      match demod.2 with
      | none => ⟨demod.1, none⟩
      | some b => onBit b demod.1
    let fsk := fskStep (s.cfg.fskN S.prot) s.cfg.fskEps S.fsk d
    let psk := pskStep s.cfg.pskN S.psk d
    let after (r : Fed) (resp : Word) : Outcome :=
      .next { s with slots := s.slots.set n.toNat r.stored, resp := if r.id.isSome then resp else 0 }
    (S.variant = .ioprox → exec (.feedIoprox n d) s =
      after (fed ({ S with fsk := fsk.1 }, fsk.2) ioproxBit) 0x10)
    ∧ (S.variant = .paradox → exec (.feedParadox n d) s =
      after (fed ({ S with fsk := fsk.1 }, fsk.2) paradoxBit) 0x30)
    ∧ (S.variant = .indala64 → exec (.feedIndala64 n d) s =
      after (fed ({ S with psk := psk.1 }, psk.2) (indala64Bit s.cfg.indala)) 0x10)
    ∧ (S.variant = .indala224 → exec (.feedIndala224 n d) s =
      after (fed ({ S with psk := psk.1 }, psk.2) indala224Bit) 0x30)

/-- R160: FSK windows do not overlap. From a window boundary, whatever the window holds, N samples emit
exactly one bit, FSK_DECIDE of those samples in arrival order, and fewer emit none. -/
def Obligations.FskEmitsOneBitPerWindow : Prop :=
  ∀ (n eps : Nat) (d : FskDemod) (xs : List (BitVec 16)), 1 ≤ n → n ≤ 65536 → d.win.length = n → d.cnt = 0 →
    (xs.length = n → fskRun n eps xs d = (⟨xs, 0⟩, [fskDecide eps (xs.map BitVec.toInt)]))
    ∧ (xs.length < n → (fskRun n eps xs d).2 = [] ∧ (fskRun n eps xs d).1.cnt.toNat = xs.length)

/-- R170, R171: PSK_STEP on a window of N samples. The window slides by half; the first full window seeds
PREV_SUM and emits nothing; each later one emits 1 exactly when the product of the sums of the two windows
is negative. PREV_SUM holds the sum exactly. -/
def Obligations.PskWindowSlidesByHalf : Prop :=
  ∀ (n : Nat) (d : PskDemod) (x : BitVec 16), n % 2 = 0 → 2 ≤ n → n ≤ 65534 → d.win.length = n →
    d.cnt.toNat < n →
    let r := pskStep n d x
    let w := d.win.set d.cnt.toNat x
    (d.cnt.toNat + 1 < n → r.2 = none ∧ r.1.win = w ∧ r.1.cnt.toNat = d.cnt.toNat + 1
        ∧ r.1.prevValid = d.prevValid ∧ r.1.prevSum = d.prevSum)
    ∧ (d.cnt.toNat + 1 = n → r.1.win.take (n / 2) = w.drop (n / 2) ∧ r.1.win.drop (n / 2) = w.drop (n / 2)
        ∧ r.1.cnt.toNat = n / 2 ∧ r.1.prevValid = true ∧ r.1.prevSum.toInt = (w.map BitVec.toInt).sum
        ∧ r.2 = if d.prevValid then some (decide (d.prevSum.toInt * (w.map BitVec.toInt).sum < 0)) else none)

/-- R162 with R161: FSK_DECIDE is the comparison of the Goertzel powers in exact real arithmetic, at 2π/10
and 2π/8, whenever they differ by more than the rounding bound; the exact model (bound 0) gives 0 on a
tie. -/
def Obligations.FskDecideComparesTheRealPowers : Prop :=
  ∀ (eps : Nat) (x : List Int),
    (goertzelReal x fskWHi + eps < goertzelReal x fskWLo → fskDecide eps x = true)
    ∧ (goertzelReal x fskWLo + eps < goertzelReal x fskWHi → fskDecide eps x = false)
    ∧ (goertzelReal x fskWLo = goertzelReal x fskWHi → fskDecide 0 x = false)

/-- R161: the integer pairs of the model are the real Goertzel powers, a + b·√2 for the high tone and
a + b·(1+√5)/2 for the low tone, and neither is negative. -/
def Obligations.GoertzelPairsAreTheRealPowers : Prop :=
  ∀ x : List Int,
    goertzelReal x fskWHi = (powerHi x).a + (powerHi x).b * Real.sqrt 2
    ∧ goertzelReal x fskWLo = (powerLo x).a + (powerLo x).b * ((1 + Real.sqrt 5) / 2)
    ∧ 0 ≤ goertzelReal x fskWHi ∧ 0 ≤ goertzelReal x fskWLo

/-! ## Frames and codecs -/

/-- R33: every raw frame has its variant's length, for every configuration and identifier. -/
def Obligations.FramesHaveTheirLength : Prop :=
  ∀ (v : Variant) (c : Config) (id : List Byte), (frameOf v c id).length = frameLen v

/-- R222, R195, R223, R220, R221: every bit of an FDXB frame. The header is ten 0 bits and a 1, the CRC field is
0xE139 whatever the identifier, the last 27 bits are 0, and the stuff bits S[9m+8] are 1. Of a 16-byte
identifier, the other 66 bits of the stuffed stream are nat mod 2^38, cc mod 2^10, the two flags and res, in
that order, most significant bit first: the identifier's other bits are not sent. -/
def Obligations.FdxbFrameFixedFields : Prop :=
  ∀ id : List Byte,
    let F := frameFdxb id
    let S := slice F 11 53 ++ slice F 80 21
    let byte (k : Nat) := (byteAt id k).toNat
    F.length = 128 ∧ val (slice F 0 11) = 0x001 ∧ val (slice F 64 16) = 0xE139
    ∧ slice F 101 27 = List.replicate 27 false
    ∧ (∀ m, m < 8 → bitAt S (9 * m + 8) = true)
    ∧ (id.length = 16 →
        ((List.range 74).filter fun t => t % 9 ≠ 8).map (bitAt S)
          = bitsOf 38 ((byte 0 * 2 ^ 32 + byte 1 * 2 ^ 24 + byte 2 * 2 ^ 16 + byte 3 * 2 ^ 8 + byte 4) % 2 ^ 38)
            ++ bitsOf 10 ((byte 5 * 2 ^ 8 + byte 6) % 2 ^ 10)
            ++ [(byteAt id 7).getLsbD 0, (byteAt id 8).getLsbD 0] ++ bitsOf 16 (byte 9 * 2 ^ 8 + byte 10))

/-- R220, R224, R225: from a cleared codec, the 128 bits of the frame of a valid identifier are captured
exactly once, at the last bit, as that identifier, and the codec is re-armed. -/
def Obligations.FdxbDecodesItsOwnFrames : Prop :=
  ∀ (id : List Byte) (S : Slot), fdxbValid id → S.fdxb = ⟨0, 0⟩ →
    feedBits fdxbBit (frameFdxb id) S = (S, [id])
    ∧ (feedBits fdxbBit ((frameFdxb id).take 127) S).2 = []

/-- R293 with R151 and R153, at command level and for every identifier: on a JABLOTRON slot in its START
state, the 65 FEEDs of BP_STIM of the frame answer DONE on the last and on no other, with the identifier in
ID_BUF and the codec re-armed. -/
def Obligations.JablotronDecodesItsOwnFrames : Prop :=
  ∀ (s : State) (n : BitVec 4) (S : Slot) (id : List Byte), id.length = 5 →
    s.slots[n.toNat]? = some S → S.alloc = true → S.prot = .jablotron → S.sync = false →
    S.jablotron = ⟨0, 0⟩ → s.host = feedWords n (bpStim (frameJablotron id)) →
    (∀ k, 1 ≤ k → k ≤ 64 → ∃ t : State, Host.Core.run Sys2Proof.core k s = .next t ∧ t.resp = 0)
    ∧ ∃ t : State, Host.Core.run Sys2Proof.core 65 s = .next t ∧ t.resp = 0x10
        ∧ t.slots[n.toNat]? = some { S with sync := true, dataValid := true, idBuf := padId id }

/-- R272, R274: from a cleared codec, the 64 bits of a frame are captured exactly once, at the last bit,
as the four fields and the recomputed checksum; id[4] does not matter. -/
def Obligations.IoproxDecodesItsOwnFrames : Prop :=
  ∀ (fac ver chi clo x : Byte) (S : Slot), S.ioprox = ⟨.search, 0, 0, 0⟩ →
    feedBits ioproxBit (frameIoprox [fac, ver, chi, clo, x]) S
      = (S, [[fac, ver, chi, clo, 0xFF - (0xF0 + fac + ver + chi + clo)]])
    ∧ (feedBits ioproxBit ((frameIoprox [fac, ver, chi, clo, x]).take 63) S).2 = []

/-- R240, R245, R246, with the map of R241. The bit rule, for every accumulator and count: a bit shifts in
at the low end modulo 2^64, a full window that passes is captured and the codec cleared, any other slides on.
So, whatever the codec held and whatever bits came before, a frame of any of the 2^24 identifiers is
captured as that identifier at its last bit unless an earlier bit captured; from a cleared codec, no earlier
one does. -/
def Obligations.Indala64DecodesItsOwnFrames : Prop :=
  (∀ (b : Bool) (S : Slot),
    let acc := (2 * S.indala.acc.toNat + b.toNat) % 2 ^ 64
    let cnt := min (S.indala.cnt.toNat + 1) 64
    let F := bitsOf 64 acc
    let fc := val ([57, 49, 44, 47, 48, 53, 39, 58].map (bitAt F))
    let cn := val ([42, 45, 43, 40, 52, 36, 35, 51, 46, 33, 37, 54, 56, 59, 50, 41].map (bitAt F))
    let even := decide (([14, 12, 9, 8, 6, 5, 2, 0].map fun k => (cn.testBit k).toNat).sum % 2 = 0)
    let p1 := (List.range 16).foldl (fun p j => p ^^ bitAt F (33 + 2 * j)) true
    let p2 := [36, 40, 42, 44, 46, 48, 50, 52, 54, 56, 58, 60, 62].foldl (fun p t => p ^^ bitAt F t) true
    indala64Bit IndalaMap.default b S =
      if cnt = 64 ∧ bitAt F 0 = true ∧ bitAt F 2 = true ∧ bitAt F 32 = true ∧ bitAt F 34 = p1
          ∧ bitAt F 38 = p2 ∧ bitAt F 62 = even ∧ bitAt F 63 = !even then
        ⟨{ S with indala := ⟨0, 0⟩ }, some [BitVec.ofNat 8 fc, BitVec.ofNat 8 (cn / 256), BitVec.ofNat 8 cn]⟩
      else ⟨{ S with indala := ⟨BitVec.ofNat 224 acc, BitVec.ofNat 8 cnt⟩ }, none⟩)
  ∧ ∀ (id : List Byte) (S : Slot) (P : List Bool), id.length = 3 →
    let onBit := indala64Bit IndalaMap.default
    let F := frameIndala64 IndalaMap.default id
    ((feedBits onBit (P ++ F.take 63) S).2 = [] →
      feedBits onBit (P ++ F) S = ({ S with indala := ⟨0, 0⟩ }, [id]))
    ∧ (S.indala = ⟨0, 0⟩ → feedBits onBit F S = (S, [id]) ∧ (feedBits onBit (F.take 63) S).2 = [])

/-- R248, R249. The frame of any identifier is its 28 bytes, most significant bit first, marked or not. The bit
rule, for every accumulator and count: a bit shifts in at the low end modulo 2^224, a
full window whose bits 0, 2 and 32 are 1 is captured as its 28 bytes and the codec cleared, any other slides
on. So, whatever the codec held and whatever bits came before, a frame is captured at its last bit, unless an
earlier bit captured, exactly when id[0][7], id[0][5] and id[4][7] are 1; from a cleared codec, no earlier
bit captures. -/
def Obligations.Indala224DecodesMarkedFrames : Prop :=
  (∀ (id : List Byte) (t : Nat), t < 224 →
    bitAt (frameIndala224 id) t = (byteAt id (t / 8)).getLsbD (7 - t % 8))
  ∧ (∀ (b : Bool) (S : Slot),
    let acc := (2 * S.indala.acc.toNat + b.toNat) % 2 ^ 224
    let cnt := min (S.indala.cnt.toNat + 1) 224
    indala224Bit b S =
      if cnt = 224 ∧ acc.testBit 223 = true ∧ acc.testBit 221 = true ∧ acc.testBit 191 = true then
        ⟨{ S with indala := ⟨0, 0⟩ },
          some ((List.range 28).map fun k => BitVec.ofNat 8 (acc / 2 ^ (216 - 8 * k)))⟩
      else ⟨{ S with indala := ⟨BitVec.ofNat 224 acc, BitVec.ofNat 8 cnt⟩ }, none⟩)
  ∧ ∀ (id : List Byte) (S : Slot) (P : List Bool), id.length = 28 →
    let F := frameIndala224 id
    let marked := (byteAt id 0).getLsbD 7 ∧ (byteAt id 0).getLsbD 5 ∧ (byteAt id 4).getLsbD 7
    ((feedBits indala224Bit (P ++ F.take 223) S).2 = [] →
      (marked → feedBits indala224Bit (P ++ F) S = ({ S with indala := ⟨0, 0⟩ }, [id]))
      ∧ (¬ marked → (feedBits indala224Bit (P ++ F) S).2 = []))
    ∧ (S.indala = ⟨0, 0⟩ → (feedBits indala224Bit (F.take 223) S).2 = []
        ∧ (marked → feedBits indala224Bit F S = (S, [id])))

/-- R274. The search, in every SEARCH state: a 0 counts up, saturating at 255; a 1 after fewer than 8 zeros
sets ZRUN to 0 and starts nothing; a 1 after 8 or more starts the window. So, from a cleared codec, whatever
bits without a preamble come first, a run of 8 or more zeros, of any length, ended by a 1 starts the 55-bit
window; the window is captured exactly when its sentinel is 0xF0 and its checksum byte is that of its four
fields, and either way the search starts again with every field 0. -/
def Obligations.IoproxPreambleStartsTheWindow : Prop :=
  (∀ S : Slot, S.ioprox.mode = .search →
    ioproxBit false S
      = ⟨{ S with ioprox := { S.ioprox with zrun := BitVec.ofNat 8 (min (S.ioprox.zrun.toNat + 1) 255) } }, none⟩
    ∧ (S.ioprox.zrun.toNat < 8 → ioproxBit true S = ⟨{ S with ioprox := { S.ioprox with zrun := 0 } }, none⟩)
    ∧ (8 ≤ S.ioprox.zrun.toNat →
        ioproxBit true S = ⟨{ S with ioprox := ⟨.collect, S.ioprox.zrun, 1, 1⟩ }, none⟩))
  ∧ ∀ (S : Slot) (P : List Bool) (k : Nat) (F : List Bool), S.ioprox = ⟨.search, 0, 0, 0⟩ →
    ¬ (List.replicate 8 false ++ [true]) <:+: P → P.getLast? ≠ some false → 8 ≤ k → F.length = 54 →
    let W := true :: F
    let fac := val (slice W 9 8)
    let ver := val (slice W 18 8)
    let chi := val (slice W 27 8)
    let clo := val (slice W 36 8)
    let cks := val (slice W 45 8)
    feedBits ioproxBit P S = (S, [])
    ∧ feedBits ioproxBit (P ++ List.replicate k false ++ W) S
      = (S, if val (slice W 0 8) = 0xF0 ∧ cks = 0xFF - (0xF0 + fac + ver + chi + clo) % 256
          then [[fac, ver, chi, clo, cks].map (BitVec.ofNat 8)] else [])

/-- R315. The search, in every SEARCH state: the 8-bit window slides by one bit, and it starts the collection
exactly when 8 bits were seen and they are 0x0F. So, from a cleared codec, after any earlier bits the first
0x0F of the stream, at any alignment, starts the collection; the next 88 bits are taken unchecked and captured
by position, and the search starts again with every field 0. -/
def Obligations.ParadoxCollectsUnchecked : Prop :=
  (∀ (b : Bool) (S : Slot), S.paradox.mode = .search →
    let reg := (2 * S.paradox.sreg.toNat + b.toNat) % 256
    let cnt := min (S.paradox.scnt.toNat + 1) 8
    paradoxBit b S =
      if cnt = 8 ∧ reg = 0x0F then
        ⟨{ S with paradox := ⟨.collect, BitVec.ofNat 8 reg, BitVec.ofNat 4 cnt, 0x0F, 8⟩ }, none⟩
      else
        ⟨{ S with paradox := { S.paradox with sreg := BitVec.ofNat 8 reg, scnt := BitVec.ofNat 4 cnt } }, none⟩)
  ∧ ∀ (S : Slot) (P F : List Bool), S.paradox = ⟨.search, 0, 0, 0, 0⟩ → ¬ bitsOf 8 0x0F <:+: P → F.length = 88 →
    (feedBits paradoxBit (P ++ bitsOf 8 0x0F ++ F.take 87) S).2 = []
    ∧ feedBits paradoxBit (P ++ bitsOf 8 0x0F ++ F) S
      = (S, [(List.range 6).map fun j => BitVec.ofNat 8 (val (slice F (24 + 8 * j) 8))])

/-- R246: any single-bit change of a valid Indala 64 frame at a marker or at a position of 33..63 is
rejected; at position 1 or 3..31 it is accepted with the same identifier. -/
def Obligations.Indala64RejectsSingleBitChanges : Prop :=
  ∀ (id : List Byte) (t : Nat), id.length = 3 → t < 64 →
    let F := frameIndala64 IndalaMap.default id
    let G := F.set t (!bitAt F t)
    (t = 0 ∨ t = 2 ∨ 32 ≤ t → acceptIndala64 IndalaMap.default G = false)
    ∧ (t = 1 ∨ (3 ≤ t ∧ t ≤ 31) →
        acceptIndala64 IndalaMap.default G = true ∧ extractIndala64 IndalaMap.default G = id)

/-- R293: flipping any one bit of an accepted Jablotron window, preamble, card id or checksum, makes it
rejected. -/
def Obligations.JablotronRejectsSingleBitChanges : Prop :=
  ∀ (acc : BitVec 64) (t : Nat), t < 64 → acceptJablotron acc = true →
    acceptJablotron (acc ^^^ BitVec.twoPow 64 t) = false

/-- R224: flipping one bit of an accepted FDXB window is rejected exactly in the header, value bits
127..117, and the CRC field, value bits 63..48: a corrupted payload is not detected. -/
def Obligations.FdxbChecksHeaderAndCrcFieldOnly : Prop :=
  ∀ (acc : BitVec 128) (t : Nat), t < 128 → acceptFdxb acc = true →
    (acceptFdxb (acc ^^^ BitVec.twoPow 128 t) = false ↔ 117 ≤ t ∨ (48 ≤ t ∧ t ≤ 63))

/-- R241 to R244: an Indala 64 frame has its markers, its zeros, its data bits by the map, its trailer, and
two parities that make the odd positions of 33..63 with P1, and the even ones with P2, odd in sum. -/
def Obligations.Indala64FrameLayout : Prop :=
  ∀ (fc : Byte) (cn : BitVec 16),
    let F := frameIndala64 IndalaMap.default [fc, cn.extractLsb' 8 8, cn.extractLsb' 0 8]
    let even := ([14, 12, 9, 8, 6, 5, 2, 0].map fun b => (cn.getLsbD b).toNat).sum % 2 = 0
    val (slice F 0 32) = 0xA0000000 ∧ bitAt F 32 = true
    ∧ bitAt F 55 = false ∧ bitAt F 60 = false ∧ bitAt F 61 = false
    ∧ ([57, 49, 44, 47, 48, 53, 39, 58].map (bitAt F) = bitsOf 8 fc.toNat)
    ∧ ([42, 45, 43, 40, 52, 36, 35, 51, 46, 33, 37, 54, 56, 59, 50, 41].map (bitAt F) = bitsOf 16 cn.toNat)
    ∧ (bitAt F 62 = true ↔ even) ∧ (bitAt F 63 = true ↔ ¬ even)
    ∧ (bitAt F 34 ^^ ((List.range 16).foldl (fun p j => p ^^ bitAt F (33 + 2 * j)) false)) = true
    ∧ ([36, 40, 42, 44, 46, 48, 50, 52, 54, 56, 58, 60, 62].foldl (fun p t => p ^^ bitAt F t) (bitAt F 38)) = true

/-- R272: an IOProx frame by position. -/
def Obligations.IoproxFrameLayout : Prop :=
  ∀ fac ver chi clo x : Byte,
    let F := frameIoprox [fac, ver, chi, clo, x]
    slice F 0 9 = List.replicate 9 false ∧ val (slice F 9 8) = 0xF0
    ∧ (∀ t ∈ [17, 26, 35, 44, 53, 62, 63], bitAt F t = true)
    ∧ val (slice F 18 8) = fac.toNat ∧ val (slice F 27 8) = ver.toNat ∧ val (slice F 36 8) = chi.toNat
    ∧ val (slice F 45 8) = clo.toNat
    ∧ val (slice F 54 8) = 0xFF - (0xF0 + fac.toNat + ver.toNat + chi.toNat + clo.toNat) % 256

/-- R290 to R292: V[63:48] = 0xFFFF, V[47:8] is the big-endian card id, V[7:0] the checksum. -/
def Obligations.JablotronFrameValue : Prop :=
  ∀ a b c d e : Byte,
    (frameJablotron [a, b, c, d, e]).length = 64 ∧ val (frameJablotron [a, b, c, d, e])
      = 0xFFFF * 2 ^ 48
        + (a.toNat * 2 ^ 32 + b.toNat * 2 ^ 24 + c.toNat * 2 ^ 16 + d.toNat * 2 ^ 8 + e.toNat) * 2 ^ 8
        + (a ^^^ b ^^^ c ^^^ d ^^^ e ^^^ 0x3A).toNat

/-- R311, R312: the transmitted Paradox frame is the 96 bits of the buffer rotated left by 4. -/
def Obligations.ParadoxFrameIsTheRotatedBuffer : Prop :=
  ∀ (c : Config) (id : List Byte), id.length = 6 →
    let body := [c.paradoxSync0, c.paradoxSync1, c.paradoxSync2] ++ id
    let B := [0x0F#8] ++ body ++ [crc8Maxim body ^^^ 0x06, c.paradoxTrailer]
    (frameParadox c id).length = 96 ∧ ∀ t, t < 96 → bitAt (frameParadox c id) t
      = (B.getD ((t + 4) % 96 / 8) 0).getLsbD (7 - (t + 4) % 96 % 8)

/-- R331, R332: eight mark bits, then twelve characters, each a start 0, seven data bits in the order of
PAC_LSB_FIRST, a bit that makes the ones among the eight odd, and a stop 1. -/
def Obligations.PacFrameCharacters : Prop :=
  ∀ (c : Config) (id : List Byte), id.length = 8 →
    let F := framePac c id
    let chars := [0x02#8, 0x32, 0x30] ++ id ++ [id.foldl (· ^^^ ·) 0]
    slice F 0 8 = List.replicate 8 true
    ∧ ∀ k, k < 12 →
        bitAt F (8 + 10 * k) = false ∧ bitAt F (17 + 10 * k) = true
        ∧ (∀ j, j < 7 → bitAt F (9 + 10 * k + j)
            = (chars.getD k 0).getLsbD (if c.pacLsbFirst then j else 6 - j))
        ∧ (slice F (9 + 10 * k) 8).count true % 2 = 1

/-! ## Encode outputs -/

/-- R125, R355 and the seven MODULATE rules: MODULATE.FDXB, .INDALA64, .INDALA224, .IOPROX, .JABLOTRON,
.PARADOX and .PAC on an allocated slot of the variant render the frame of ID_IN[0..PAYLOAD−1] into the
WAVE of the protocol and answer the segment count; nothing else changes. The count is 2 per bit for
biphase and PSK, 1 for NRZ, and 2·(n1·⌊B/10⌋ + n0·⌊B/8⌋) for FSK, and never passes the capacity. The HOST then
reads the rendered segments, and (0,0) in every segment past them (log 11, log 19: how the model holds WAVE and
its reads). -/
def Obligations.ModulateWritesTheRenderedFrame : Prop :=
  ∀ (v : Variant) (s : State) (n : BitVec 4) (S : Slot), s.slots[n.toNat]? = some S → S.alloc = true →
    S.variant = v →
    let F := frameOf v s.cfg (s.idIn.toList.take (payload v))
    let B := s.cfg.bitrate (variantProt v)
    let seq := match v with
      | .fdxb | .jablotron => renderBiphase F B
      | .indala64 | .indala224 => renderPsk F B
      | .ioprox | .paradox => renderFsk F B
      | .pac => renderNrz F B
    let count := match v with
      | .fdxb => 256
      | .indala64 => 128
      | .indala224 => 448
      | .jablotron => 128
      | .pac => 128
      | .ioprox | .paradox => 2 * (F.count true * (B / 10) + F.count false * (B / 8))
    let p := variantProt v
    let t : State := { s with
      waves := s.waves.set (protCode p) ⟨seq, BitVec.ofNat 16 count⟩
      resp := BitVec.ofNat 32 (65536 * count) }
    seq.length = count ∧ count ≤ waveCap s.cfg p
    ∧ exec (modulateRow v n) s = .next t
    ∧ (∀ j, j < count → t.hostRead (.wave p j) = (seq[j]?).map .segment)
    ∧ ∀ j, count ≤ j → j < waveCap s.cfg p → t.hostRead (.wave p j) = some (.segment ⟨false, 0⟩)

/-- R351: the level toggles at every bit boundary, starting from 1, and once more in the middle of a 1;
the halves last ⌊B/2⌋ and B − ⌊B/2⌋. -/
def Obligations.BiphaseRenderingTogglesAtBoundaries : Prop :=
  ∀ (F : List Bool) (B k : Nat), B ≤ 2047 → k < F.length →
    let seg (j : Nat) : Segment := (renderBiphase F B).getD j ⟨false, 0⟩
    (seg (2 * k)).level = (if k = 0 then false else !(seg (2 * k - 1)).level)
    ∧ (seg (2 * k + 1)).level = ((seg (2 * k)).level ^^ bitAt F k)
    ∧ (seg (2 * k)).duration.toNat = B / 2 ∧ (seg (2 * k + 1)).duration.toNat = B - B / 2

/-- R352: the phase of cell k is reversed once for each 1 among F[0..k]; both halves of a cell have it. -/
def Obligations.PskRenderingReversesOnOnes : Prop :=
  ∀ (F : List Bool) (B k : Nat), B ≤ 2047 → k < F.length →
    let seg (j : Nat) : Segment := (renderPsk F B).getD j ⟨false, 0⟩
    (seg (2 * k)).level = decide ((F.take (k + 1)).count true % 2 = 1)
    ∧ (seg (2 * k + 1)).level = (seg (2 * k)).level
    ∧ (seg (2 * k)).duration.toNat = B / 2 ∧ (seg (2 * k + 1)).duration.toNat = B - B / 2

/-- R353, R354, at every bit rate: RENDER_FSK gives, at the place the earlier bits leave it, ⌊B/10⌋ times (1,5),
(0,5) for a 1 and ⌊B/8⌋ times (1,4), (0,4) for a 0, and nothing else; RENDER_NRZ gives one segment per bit, of
the bit's level and duration B. -/
def Obligations.FskAndNrzRenderingGiveTheirSegments : Prop :=
  ∀ (F : List Bool) (B : Nat),
    let start (k : Nat) := 2 * ((F.take k).count true * (B / 10) + (F.take k).count false * (B / 8))
    (renderFsk F B).length = start F.length
    ∧ (∀ k, k < F.length → ∀ j, j < 2 * (if bitAt F k then B / 10 else B / 8) →
        (renderFsk F B)[start k + j]? = some ⟨decide (j % 2 = 0), if bitAt F k then 5 else 4⟩)
    ∧ (renderNrz F B).length = F.length
    ∧ ∀ k, k < F.length → (renderNrz F B)[k]? = some ⟨bitAt F k, BitVec.ofNat 16 B⟩

/-- R126, R357, R75: WRITE_T5577.FDXB, .INDALA64, .INDALA224, .IOPROX, .JABLOTRON, .PARADOX and .PAC on an
allocated slot of the variant write the configuration word and the frame in 32-bit chunks, first-sent bit
at bit 31, zeros behind them, and the count 1 + L/32; nothing else changes. -/
def Obligations.WriteT5577ChunksTheFrame : Prop :=
  ∀ (v : Variant) (s : State) (n : BitVec 4) (S : Slot), s.slots[n.toNat]? = some S → S.alloc = true →
    S.variant = v →
    let F := frameOf v s.cfg (s.idIn.toList.take (payload v))
    let count := 1 + frameLen v / 32
    ∃ t, exec (writeRow v n) s = .next t
      ∧ t = { s with
          blocks := t.blocks
          blockCount := BitVec.ofNat 4 count
          resp := BitVec.ofNat 32 (65536 * count) }
      ∧ t.blocks[0] = s.cfg.t5577Cfg v
      ∧ ∀ k : Fin 8, 1 ≤ k.val →
          (k.val < count → ∀ j, j < 32 → t.blocks[k].getLsbD (31 - j) = bitAt F (32 * (k.val - 1) + j))
          ∧ (count ≤ k.val → t.blocks[k] = 0)

/-! ## Generators -/

/-- R200: GEN.CRC16, GEN.CRC8MAXIM, GEN.XOR8 and GEN.SUMCOMP8 run on ID_IN[0..LEN−1] for LEN up to 28, and
GEN.ODDPAR7 on ID_IN[0] for LEN 1; the result stands in RESULT and nothing else changes. Any other LEN
raises E_BAD_LEN (8). -/
def Obligations.GenRunsTheGenerator : Prop :=
  ∀ (s : State) (len : BitVec 8),
    let d := s.idIn.toList.take len.toNat
    (len.toNat ≤ 28 →
      exec (.genCrc16 len) s = .next { s with resp := crc16 d ++ 0#16 }
      ∧ exec (.genCrc8Maxim len) s = .next { s with resp := 0#8 ++ crc8Maxim d ++ 0#16 }
      ∧ exec (.genXor8 len) s = .next { s with resp := 0#8 ++ xor8 d ++ 0#16 }
      ∧ exec (.genSumComp8 len) s = .next { s with resp := 0#8 ++ sumComp8 d ++ 0#16 })
    ∧ (28 < len.toNat → ∀ i ∈ [Instr.genCrc16 len, .genCrc8Maxim len, .genXor8 len, .genSumComp8 len],
        exec i s = .next { s with resp := 8 })
    ∧ (len = 1 → exec (.genOddPar7 len) s = .next { s with
        resp := if ((List.range 7).countP fun k => s.idIn[0].getLsbD k) % 2 = 0 then 0x10000 else 0 })
    ∧ (len ≠ 1 → exec (.genOddPar7 len) s = .next { s with resp := 8 })

/-- R190: CRC16 is an unreflected CRC with no final exclusive or: a message followed by its own CRC, most
significant byte first, has CRC 0; no byte gives 0xFFFF; the catalogue's check value is 0x29B1. -/
def Obligations.Crc16OfAMessageAndItsCrcIsZero : Prop :=
  (∀ d : List Byte, crc16 (d ++ [(crc16 d).extractLsb' 8 8, (crc16 d).extractLsb' 0 8]) = 0)
  ∧ crc16 [] = 0xFFFF
  ∧ crc16 [0x31, 0x32, 0x33, 0x34, 0x35, 0x36, 0x37, 0x38, 0x39] = 0x29B1

/-- R191: leading zero bytes do not change CRC8MAXIM; a message followed by its own CRC has CRC 0; the
result is linear in the message; the catalogue's check value is 0xA1. -/
def Obligations.Crc8MaximIsLinear : Prop :=
  (∀ (n : Nat) (d : List Byte), crc8Maxim (List.replicate n 0 ++ d) = crc8Maxim d)
  ∧ (∀ d : List Byte, crc8Maxim (d ++ [crc8Maxim d]) = 0)
  ∧ (∀ d e : List Byte, d.length = e.length →
      crc8Maxim (List.zipWith (· ^^^ ·) d e) = crc8Maxim d ^^^ crc8Maxim e)
  ∧ crc8Maxim [0x31, 0x32, 0x33, 0x34, 0x35, 0x36, 0x37, 0x38, 0x39] = 0xA1

/-- R192 to R194: XOR8 is 0 of no byte and takes each byte in by exclusive or, so a sequence against itself
gives 0; SUMCOMP8 is 0xFF minus the byte sum mod 256; ODDPAR7 with the seven low bits has an odd number of
ones, bit 7 ignored. -/
def Obligations.ByteChecksumsFollowTheirFormulas : Prop :=
  (xor8 [] = 0 ∧ ∀ (b : Byte) (d : List Byte), xor8 (b :: d) = b ^^^ xor8 d)
  ∧ (∀ d e : List Byte, xor8 (d ++ e) = xor8 d ^^^ xor8 e ∧ xor8 (d ++ d) = 0)
  ∧ (∀ d : List Byte, (sumComp8 d).toNat = (0xFF - (d.map BitVec.toNat).sum % 256) % 256)
  ∧ (∀ c : Byte, ((List.range 7).countP (fun k => c.getLsbD k) + (oddPar7 c).toNat) % 2 = 1
      ∧ oddPar7 (c ^^^ 0x80) = oddPar7 c)
end

