-- ==== Sys2Proof/Laws/Demod.lean ====
section
/-! SUPPORT. What a demodulator step and a codec driven by it can do, said once (Machine/Demod.lean). -/

namespace Sys2Proof.Machine

/-- A biphase codec's FEED: a reset clears, silence keeps the codec, a bit runs the codec's rule. -/
theorem feedBiphase_cases (clear : Slot → Slot) (onBit : Bool → Slot → Fed) (i : Nat) (S : Slot) :
    ((bpStep S.sync i).reset = true
        ∧ feedBiphase clear onBit i S = ⟨clear { S with sync := (bpStep S.sync i).sync }, none⟩)
      ∨ ((bpStep S.sync i).reset = false ∧ (bpStep S.sync i).bit = none
        ∧ feedBiphase clear onBit i S = ⟨{ S with sync := (bpStep S.sync i).sync }, none⟩)
      ∨ ∃ b, (bpStep S.sync i).reset = false ∧ (bpStep S.sync i).bit = some b
        ∧ feedBiphase clear onBit i S = onBit b { S with sync := (bpStep S.sync i).sync } := by
  unfold feedBiphase
  cases hr : (bpStep S.sync i).reset with
  | true => exact .inl ⟨rfl, by simp [hr]⟩
  | false =>
    cases hb : (bpStep S.sync i).bit with
    | none => exact .inr (.inl ⟨rfl, rfl, by simp [hr, hb]⟩)
    | some b => exact .inr (.inr ⟨b, rfl, rfl, by simp [hr, hb]⟩)

/-- An FSK codec's FEED: without a bit the codec is kept, with one its rule runs. -/
theorem feedFsk_cases (onBit : Bool → Slot → Fed) (x : BitVec 16) (c : Config) (S : Slot) :
    ((fskStep (c.fskN S.prot) c.fskEps S.fsk x).2 = none
        ∧ feedFsk onBit x c S = ⟨{ S with fsk := (fskStep (c.fskN S.prot) c.fskEps S.fsk x).1 }, none⟩)
      ∨ ∃ b, (fskStep (c.fskN S.prot) c.fskEps S.fsk x).2 = some b
        ∧ feedFsk onBit x c S = onBit b { S with fsk := (fskStep (c.fskN S.prot) c.fskEps S.fsk x).1 } := by
  unfold feedFsk
  cases hb : (fskStep (c.fskN S.prot) c.fskEps S.fsk x).2 with
  | none => exact .inl ⟨rfl, by simp [hb]⟩
  | some b => exact .inr ⟨b, rfl, by simp [hb]⟩

/-- A PSK codec's FEED: without a bit the codec is kept, with one its rule runs. -/
theorem feedPsk_cases (onBit : Bool → Slot → Fed) (x : BitVec 16) (c : Config) (S : Slot) :
    ((pskStep (c.pskWidth S.prot) S.psk x).2 = none
        ∧ feedPsk onBit x c S = ⟨{ S with psk := (pskStep (c.pskWidth S.prot) S.psk x).1 }, none⟩)
      ∨ ∃ b, (pskStep (c.pskWidth S.prot) S.psk x).2 = some b
        ∧ feedPsk onBit x c S = onBit b { S with psk := (pskStep (c.pskWidth S.prot) S.psk x).1 } := by
  unfold feedPsk
  cases hb : (pskStep (c.pskWidth S.prot) S.psk x).2 with
  | none => exact .inl ⟨rfl, by simp [hb]⟩
  | some b => exact .inr ⟨b, rfl, by simp [hb]⟩

/-- FSK_STEP inside a window (R160). -/
theorem fskStep_inside {n eps : Nat} {d : FskDemod} {x : BitVec 16} (h : d.cnt.toNat + 1 < n) :
    fskStep n eps d x = (⟨d.win.set d.cnt.toNat x, BitVec.ofNat 16 (d.cnt.toNat + 1)⟩, none) := by
  simp [fskStep, h]

/-- FSK_STEP at the end of a window (R160). -/
theorem fskStep_full {n eps : Nat} {d : FskDemod} {x : BitVec 16} (h : n ≤ d.cnt.toNat + 1) :
    fskStep n eps d x = (⟨d.win.set d.cnt.toNat x, 0⟩,
      some (fskDecide eps (((d.win.set d.cnt.toNat x).take n).map sampleOf))) := by
  simp [fskStep, Nat.not_lt.mpr h]

/-- PSK_STEP inside a window (R170). -/
theorem pskStep_inside {n : Nat} {d : PskDemod} {x : BitVec 16} (h : d.cnt.toNat + 1 < n) :
    pskStep n d x
      = (⟨d.win.set d.cnt.toNat x, BitVec.ofNat 16 (d.cnt.toNat + 1), d.prevValid, d.prevSum⟩, none) := by
  simp [pskStep, h]

/-- PSK_STEP at the end of a window (R170, R171). -/
theorem pskStep_full {n : Nat} {d : PskDemod} {x : BitVec 16} (h : n ≤ d.cnt.toNat + 1) :
    pskStep n d x
      = (⟨slideWindow n (d.win.set d.cnt.toNat x), BitVec.ofNat 16 (n / 2), true,
          BitVec.ofInt 32 (windowSum ((d.win.set d.cnt.toNat x).take n))⟩,
        if d.prevValid then
          some (decide (d.prevSum.toInt * windowSum ((d.win.set d.cnt.toNat x).take n) < 0)) else none) := by
  simp [pskStep, Nat.not_lt.mpr h]

/-- An out-of-window interval resets and leaves sync set (R151). -/
theorem bpStep_reset_sync {sync : Bool} {i : Nat} (h : (bpStep sync i).reset = true) :
    (bpStep sync i).sync = true ∧ (bpStep sync i).bit = none := by
  unfold bpStep at *
  split <;> simp_all

end Sys2Proof.Machine
end

