-- ==== Sys2Proof/Laws/Operands.lean ====
section
/-! SUPPORT. The small lemmas of the bit and byte sequences (Machine/Operands.lean). -/

namespace Sys2Proof.Machine

@[simp] theorem length_bitsOf (n x : Nat) : (bitsOf n x).length = n := by simp [bitsOf]
@[simp] theorem length_beBytes (n v : Nat) : (beBytes n v).length = n := by simp [beBytes]
@[simp] theorem bitsOf_zero (x : Nat) : bitsOf 0 x = [] := rfl
@[simp] theorem val_nil : val [] = 0 := rfl
@[simp] theorem beNat_nil : beNat [] = 0 := rfl

/-- Bit t of `bits_of(x, n)` is bit n − 1 − t of x (R12). -/
theorem bitAt_bitsOf {n t : Nat} (x : Nat) (h : t < n) : bitAt (bitsOf n x) t = x.testBit (n - 1 - t) := by
  simp [bitAt, bitsOf, h]

/-- The first bit is the most significant (R12). -/
theorem val_append_singleton (F : List Bool) (b : Bool) : val (F ++ [b]) = 2 * val F + b.toNat := by
  simp [val]

/-- The first byte is the most significant (R13). -/
theorem beNat_append_singleton (bs : List Byte) (b : Byte) : beNat (bs ++ [b]) = 256 * beNat bs + b.toNat := by
  simp [beNat]

theorem bitAt_append_left {F G : List Bool} {t : Nat} (h : t < F.length) : bitAt (F ++ G) t = bitAt F t := by
  simp [bitAt, List.getElem?_append_left h]

theorem bitAt_append_right {F G : List Bool} {t : Nat} (h : F.length ≤ t) :
    bitAt (F ++ G) t = bitAt G (t - F.length) := by
  simp [bitAt, List.getElem?_append_right h]

/-- Byte k of a written buffer: the identifier's byte, 0 past its end (R35, R124). -/
theorem padId_getElem (id : List Byte) (k : Nat) (h : k < 28) : (padId id)[k] = id.getD k 0 := by
  simp [padId]

/-- Entry k of the written BLOCKS: the block, 0 past the last one (R50). -/
theorem padBlocks_getElem (blk : List Word) (k : Nat) (h : k < 8) : (padBlocks blk)[k] = blk.getD k 0 := by
  simp [padBlocks]

end Sys2Proof.Machine
end

