-- ==== Sys2Proof/Laws/State.lean ====
section
/-! SUPPORT. One lemma per field per update of State (Machine/Ops.lean), each true by rfl. -/

namespace Sys2Proof.Machine

@[simp] theorem State.setResp_cfg (s : State) (r : Word) : (s.setResp r).cfg = s.cfg := rfl
@[simp] theorem State.setResp_slots (s : State) (r : Word) : (s.setResp r).slots = s.slots := rfl
@[simp] theorem State.setResp_cmd (s : State) (r : Word) : (s.setResp r).cmd = s.cmd := rfl
@[simp] theorem State.setResp_resp (s : State) (r : Word) : (s.setResp r).resp = r := rfl
@[simp] theorem State.setResp_idIn (s : State) (r : Word) : (s.setResp r).idIn = s.idIn := rfl
@[simp] theorem State.setResp_idOut (s : State) (r : Word) : (s.setResp r).idOut = s.idOut := rfl
@[simp] theorem State.setResp_waves (s : State) (r : Word) : (s.setResp r).waves = s.waves := rfl
@[simp] theorem State.setResp_blocks (s : State) (r : Word) : (s.setResp r).blocks = s.blocks := rfl
@[simp] theorem State.setResp_blockCount (s : State) (r : Word) : (s.setResp r).blockCount = s.blockCount := rfl
@[simp] theorem State.setResp_host (s : State) (r : Word) : (s.setResp r).host = s.host := rfl

@[simp] theorem State.setCmd_cfg (s : State) (w : Word) : (s.setCmd w).cfg = s.cfg := rfl
@[simp] theorem State.setCmd_slots (s : State) (w : Word) : (s.setCmd w).slots = s.slots := rfl
@[simp] theorem State.setCmd_cmd (s : State) (w : Word) : (s.setCmd w).cmd = w := rfl
@[simp] theorem State.setCmd_resp (s : State) (w : Word) : (s.setCmd w).resp = s.resp := rfl
@[simp] theorem State.setCmd_idIn (s : State) (w : Word) : (s.setCmd w).idIn = s.idIn := rfl
@[simp] theorem State.setCmd_idOut (s : State) (w : Word) : (s.setCmd w).idOut = s.idOut := rfl
@[simp] theorem State.setCmd_waves (s : State) (w : Word) : (s.setCmd w).waves = s.waves := rfl
@[simp] theorem State.setCmd_blocks (s : State) (w : Word) : (s.setCmd w).blocks = s.blocks := rfl
@[simp] theorem State.setCmd_blockCount (s : State) (w : Word) : (s.setCmd w).blockCount = s.blockCount := rfl
@[simp] theorem State.setCmd_host (s : State) (w : Word) : (s.setCmd w).host = s.host := rfl

@[simp] theorem State.setIdIn_cfg (s : State) (k : Fin 28) (b : Byte) : (s.setIdIn k b).cfg = s.cfg := rfl
@[simp] theorem State.setIdIn_slots (s : State) (k : Fin 28) (b : Byte) : (s.setIdIn k b).slots = s.slots := rfl
@[simp] theorem State.setIdIn_cmd (s : State) (k : Fin 28) (b : Byte) : (s.setIdIn k b).cmd = s.cmd := rfl
@[simp] theorem State.setIdIn_resp (s : State) (k : Fin 28) (b : Byte) : (s.setIdIn k b).resp = s.resp := rfl
@[simp] theorem State.setIdIn_idIn (s : State) (k : Fin 28) (b : Byte) : (s.setIdIn k b).idIn = s.idIn.set k b := rfl
@[simp] theorem State.setIdIn_idOut (s : State) (k : Fin 28) (b : Byte) : (s.setIdIn k b).idOut = s.idOut := rfl
@[simp] theorem State.setIdIn_waves (s : State) (k : Fin 28) (b : Byte) : (s.setIdIn k b).waves = s.waves := rfl
@[simp] theorem State.setIdIn_blocks (s : State) (k : Fin 28) (b : Byte) : (s.setIdIn k b).blocks = s.blocks := rfl
@[simp] theorem State.setIdIn_blockCount (s : State) (k : Fin 28) (b : Byte) : (s.setIdIn k b).blockCount = s.blockCount := rfl
@[simp] theorem State.setIdIn_host (s : State) (k : Fin 28) (b : Byte) : (s.setIdIn k b).host = s.host := rfl

@[simp] theorem State.setIdOut_cfg (s : State) (id : List Byte) : (s.setIdOut id).cfg = s.cfg := rfl
@[simp] theorem State.setIdOut_slots (s : State) (id : List Byte) : (s.setIdOut id).slots = s.slots := rfl
@[simp] theorem State.setIdOut_cmd (s : State) (id : List Byte) : (s.setIdOut id).cmd = s.cmd := rfl
@[simp] theorem State.setIdOut_resp (s : State) (id : List Byte) : (s.setIdOut id).resp = s.resp := rfl
@[simp] theorem State.setIdOut_idIn (s : State) (id : List Byte) : (s.setIdOut id).idIn = s.idIn := rfl
@[simp] theorem State.setIdOut_idOut (s : State) (id : List Byte) : (s.setIdOut id).idOut = padId id := rfl
@[simp] theorem State.setIdOut_waves (s : State) (id : List Byte) : (s.setIdOut id).waves = s.waves := rfl
@[simp] theorem State.setIdOut_blocks (s : State) (id : List Byte) : (s.setIdOut id).blocks = s.blocks := rfl
@[simp] theorem State.setIdOut_blockCount (s : State) (id : List Byte) : (s.setIdOut id).blockCount = s.blockCount := rfl
@[simp] theorem State.setIdOut_host (s : State) (id : List Byte) : (s.setIdOut id).host = s.host := rfl

@[simp] theorem State.setWave_cfg (s : State) (p : Prot) (seq : List Segment) : (s.setWave p seq).cfg = s.cfg := rfl
@[simp] theorem State.setWave_slots (s : State) (p : Prot) (seq : List Segment) : (s.setWave p seq).slots = s.slots := rfl
@[simp] theorem State.setWave_cmd (s : State) (p : Prot) (seq : List Segment) : (s.setWave p seq).cmd = s.cmd := rfl
@[simp] theorem State.setWave_resp (s : State) (p : Prot) (seq : List Segment) : (s.setWave p seq).resp = s.resp := rfl
@[simp] theorem State.setWave_idIn (s : State) (p : Prot) (seq : List Segment) : (s.setWave p seq).idIn = s.idIn := rfl
@[simp] theorem State.setWave_idOut (s : State) (p : Prot) (seq : List Segment) : (s.setWave p seq).idOut = s.idOut := rfl
@[simp] theorem State.setWave_waves (s : State) (p : Prot) (seq : List Segment) : (s.setWave p seq).waves = s.waves.set (protCode p) ⟨seq, BitVec.ofNat 16 seq.length⟩ := rfl
@[simp] theorem State.setWave_blocks (s : State) (p : Prot) (seq : List Segment) : (s.setWave p seq).blocks = s.blocks := rfl
@[simp] theorem State.setWave_blockCount (s : State) (p : Prot) (seq : List Segment) : (s.setWave p seq).blockCount = s.blockCount := rfl
@[simp] theorem State.setWave_host (s : State) (p : Prot) (seq : List Segment) : (s.setWave p seq).host = s.host := rfl

@[simp] theorem State.setBlocks_cfg (s : State) (blk : List Word) : (s.setBlocks blk).cfg = s.cfg := rfl
@[simp] theorem State.setBlocks_slots (s : State) (blk : List Word) : (s.setBlocks blk).slots = s.slots := rfl
@[simp] theorem State.setBlocks_cmd (s : State) (blk : List Word) : (s.setBlocks blk).cmd = s.cmd := rfl
@[simp] theorem State.setBlocks_resp (s : State) (blk : List Word) : (s.setBlocks blk).resp = s.resp := rfl
@[simp] theorem State.setBlocks_idIn (s : State) (blk : List Word) : (s.setBlocks blk).idIn = s.idIn := rfl
@[simp] theorem State.setBlocks_idOut (s : State) (blk : List Word) : (s.setBlocks blk).idOut = s.idOut := rfl
@[simp] theorem State.setBlocks_waves (s : State) (blk : List Word) : (s.setBlocks blk).waves = s.waves := rfl
@[simp] theorem State.setBlocks_blocks (s : State) (blk : List Word) : (s.setBlocks blk).blocks = padBlocks blk := rfl
@[simp] theorem State.setBlocks_blockCount (s : State) (blk : List Word) : (s.setBlocks blk).blockCount = BitVec.ofNat 4 blk.length := rfl
@[simp] theorem State.setBlocks_host (s : State) (blk : List Word) : (s.setBlocks blk).host = s.host := rfl

@[simp] theorem State.setSlot_cfg (s : State) (n : Nat) (S : Slot) : (s.setSlot n S).cfg = s.cfg := rfl
@[simp] theorem State.setSlot_slots (s : State) (n : Nat) (S : Slot) : (s.setSlot n S).slots = s.slots.set n S := rfl
@[simp] theorem State.setSlot_cmd (s : State) (n : Nat) (S : Slot) : (s.setSlot n S).cmd = s.cmd := rfl
@[simp] theorem State.setSlot_resp (s : State) (n : Nat) (S : Slot) : (s.setSlot n S).resp = s.resp := rfl
@[simp] theorem State.setSlot_idIn (s : State) (n : Nat) (S : Slot) : (s.setSlot n S).idIn = s.idIn := rfl
@[simp] theorem State.setSlot_idOut (s : State) (n : Nat) (S : Slot) : (s.setSlot n S).idOut = s.idOut := rfl
@[simp] theorem State.setSlot_waves (s : State) (n : Nat) (S : Slot) : (s.setSlot n S).waves = s.waves := rfl
@[simp] theorem State.setSlot_blocks (s : State) (n : Nat) (S : Slot) : (s.setSlot n S).blocks = s.blocks := rfl
@[simp] theorem State.setSlot_blockCount (s : State) (n : Nat) (S : Slot) : (s.setSlot n S).blockCount = s.blockCount := rfl
@[simp] theorem State.setSlot_host (s : State) (n : Nat) (S : Slot) : (s.setSlot n S).host = s.host := rfl

@[simp] theorem State.setHost_cfg (s : State) (h : List HostAction) : (s.setHost h).cfg = s.cfg := rfl
@[simp] theorem State.setHost_slots (s : State) (h : List HostAction) : (s.setHost h).slots = s.slots := rfl
@[simp] theorem State.setHost_cmd (s : State) (h : List HostAction) : (s.setHost h).cmd = s.cmd := rfl
@[simp] theorem State.setHost_resp (s : State) (h : List HostAction) : (s.setHost h).resp = s.resp := rfl
@[simp] theorem State.setHost_idIn (s : State) (h : List HostAction) : (s.setHost h).idIn = s.idIn := rfl
@[simp] theorem State.setHost_idOut (s : State) (h : List HostAction) : (s.setHost h).idOut = s.idOut := rfl
@[simp] theorem State.setHost_waves (s : State) (h : List HostAction) : (s.setHost h).waves = s.waves := rfl
@[simp] theorem State.setHost_blocks (s : State) (h : List HostAction) : (s.setHost h).blocks = s.blocks := rfl
@[simp] theorem State.setHost_blockCount (s : State) (h : List HostAction) : (s.setHost h).blockCount = s.blockCount := rfl
@[simp] theorem State.setHost_host (s : State) (h : List HostAction) : (s.setHost h).host = h := rfl

@[simp] theorem State.raise_cfg (s : State) (e : Status) : (s.raise e).cfg = s.cfg := rfl
@[simp] theorem State.raise_slots (s : State) (e : Status) : (s.raise e).slots = s.slots := rfl
@[simp] theorem State.raise_cmd (s : State) (e : Status) : (s.raise e).cmd = s.cmd := rfl
@[simp] theorem State.raise_resp (s : State) (e : Status) : (s.raise e).resp = errorResp e := rfl
@[simp] theorem State.raise_idIn (s : State) (e : Status) : (s.raise e).idIn = s.idIn := rfl
@[simp] theorem State.raise_idOut (s : State) (e : Status) : (s.raise e).idOut = s.idOut := rfl
@[simp] theorem State.raise_waves (s : State) (e : Status) : (s.raise e).waves = s.waves := rfl
@[simp] theorem State.raise_blocks (s : State) (e : Status) : (s.raise e).blocks = s.blocks := rfl
@[simp] theorem State.raise_blockCount (s : State) (e : Status) : (s.raise e).blockCount = s.blockCount := rfl
@[simp] theorem State.raise_host (s : State) (e : Status) : (s.raise e).host = s.host := rfl

end Sys2Proof.Machine
end

