-- ==== Sys2Proof/Laws/Ops.lean ====
section
/-! SUPPORT. What each shared operation of Machine/Ops.lean can do, said once: if it answers a next
state, one of the listed cases holds. The proofs cite these instead of unfolding the operations. -/

namespace Sys2Proof.Machine

/-! ### The slot lookup -/

theorem allocated?_eq_some {s : State} {n : BitVec 4} {S : Slot} :
    s.allocated? n = some S ↔ s.slots[n.toNat]? = some S ∧ S.alloc = true := by
  unfold State.allocated?
  cases h : s.slots[n.toNat]? with
  | none => simp
  | some T =>
    cases ha : T.alloc with
    | true => simp [ha]; rintro rfl; exact ha
    | false => simp [ha]; rintro rfl; simp [ha]

theorem allocated?_eq_none {s : State} {n : BitVec 4} :
    s.allocated? n = none ↔ ∀ S, s.slots[n.toNat]? = some S → S.alloc = false := by
  unfold State.allocated?
  cases s.slots[n.toNat]? with
  | none => simp
  | some T => simp

theorem variantAt_of_slot {s : State} {n : BitVec 4} {S : Slot} (h : s.slots[n.toNat]? = some S) :
    s.variantAt n = S.variant := by
  simp [State.variantAt, h]

/-- The lookup reads nothing but the slots. -/
theorem allocated?_congr {s t : State} {n : BitVec 4} (h : t.slots[n.toNat]? = s.slots[n.toNat]?) :
    t.allocated? n = s.allocated? n := by
  simp [State.allocated?, h]

theorem variantAt_congr {s t : State} {n : BitVec 4} (h : t.slots[n.toNat]? = s.slots[n.toNat]?) :
    t.variantAt n = s.variantAt n := by
  simp [State.variantAt, h]

/-! ### The shared shapes of the commands -/

theorem onSlot_next {s t : State} {n : BitVec 4} {run : Slot → Outcome}
    (h : onSlot s n run = .next t) :
    (s.allocated? n = none ∧ t = s.raise .notAllocated)
      ∨ ∃ S, s.allocated? n = some S ∧ run S = .next t := by
  unfold onSlot at h
  split at h
  · rename_i hn; cases h; exact .inl ⟨hn, rfl⟩
  · rename_i S hs; exact .inr ⟨S, hs, h⟩

theorem onSlot_of_allocated {s : State} {n : BitVec 4} {run : Slot → Outcome} {S : Slot}
    (h : s.allocated? n = some S) : onSlot s n run = run S := by
  simp [onSlot, h]

theorem onSlot_of_not_allocated {s : State} {n : BitVec 4} {run : Slot → Outcome}
    (h : s.allocated? n = none) : onSlot s n run = .next (s.raise .notAllocated) := by
  simp [onSlot, h]

theorem onRow_next {v : Variant} {s t : State} {n : BitVec 4} {run : Slot → Outcome}
    (h : onRow v s n run = .next t) :
    (s.allocated? n = none ∧ t = s.raise .notAllocated)
      ∨ ∃ S, s.allocated? n = some S ∧ S.variant = v ∧ run S = .next t := by
  rcases onSlot_next h with h | ⟨S, hS, h⟩
  · exact .inl h
  · split at h
    · rename_i hv; exact .inr ⟨S, hS, hv, h⟩
    · cases h

theorem onRow_of_row {v : Variant} {s : State} {n : BitVec 4} {run : Slot → Outcome} {S : Slot}
    (h : s.allocated? n = some S) (hv : S.variant = v) : onRow v s n run = run S := by
  simp [onRow, onSlot_of_allocated h, hv]

theorem feedOn_next {v : Variant} {feed : Config → Slot → Fed} {n : BitVec 4} {s t : State}
    (h : feedOn v feed n s = .next t) :
    (s.allocated? n = none ∧ t = s.raise .notAllocated)
      ∨ ∃ S, s.allocated? n = some S ∧ S.variant = v
        ∧ t = (s.setSlot n.toNat (feed s.cfg S).stored).setResp (feedResp v (feed s.cfg S).id.isSome) := by
  rcases onRow_next h with h | ⟨S, hS, hv, h⟩
  · exact .inl h
  · cases h; exact .inr ⟨S, hS, hv, rfl⟩

theorem modulateOn_next {v : Variant} {frame : Config → List Byte → List Bool}
    {render : List Bool → Nat → List Segment} {n : BitVec 4} {s t : State}
    (h : modulateOn v frame render n s = .next t) :
    (s.allocated? n = none ∧ t = s.raise .notAllocated)
      ∨ ∃ S seq, s.allocated? n = some S ∧ S.variant = v
        ∧ seq = render (frame s.cfg (firstBytes s.idIn (payload v))) (s.cfg.bitrate (variantProt v))
        ∧ t = (s.setWave (variantProt v) seq).setResp (resultResp (BitVec.ofNat 16 seq.length)) := by
  rcases onRow_next h with h | ⟨S, hS, hv, h⟩
  · exact .inl h
  · cases h; exact .inr ⟨S, _, hS, hv, rfl, rfl⟩

theorem writeT5577On_next {v : Variant} {frame : Config → List Byte → List Bool} {n : BitVec 4}
    {s t : State} (h : writeT5577On v frame n s = .next t) :
    (s.allocated? n = none ∧ t = s.raise .notAllocated)
      ∨ ∃ S blk, s.allocated? n = some S ∧ S.variant = v
        ∧ blk = t5577Blocks (s.cfg.t5577Cfg v) (frame s.cfg (firstBytes s.idIn (payload v)))
        ∧ t = (s.setBlocks blk).setResp (resultResp (BitVec.ofNat 16 blk.length)) := by
  rcases onRow_next h with h | ⟨S, hS, hv, h⟩
  · exact .inl h
  · cases h; exact .inr ⟨S, _, hS, hv, rfl, rfl⟩

theorem genOn_next {legal : Nat → Bool} {g : List Byte → BitVec 16} {len : BitVec 8} {s t : State}
    (h : genOn legal g len s = .next t) :
    (legal len.toNat = false ∧ t = s.raise .badLen)
      ∨ (legal len.toNat = true ∧ t = s.setResp (resultResp (g (firstBytes s.idIn len.toNat)))) := by
  unfold genOn at h
  split at h
  · rename_i hl; cases h; exact .inr ⟨hl, rfl⟩
  · rename_i hl; cases h; exact .inl ⟨by simpa using hl, rfl⟩

theorem allocate_next {p : Prot} {s t : State} (h : allocate p s = .next t) :
    (s.leastFree? = none ∧ t = s.raise .noSlot)
      ∨ ∃ n, s.leastFree? = some n
        ∧ t = (s.setSlot n (Slot.fresh s.cfg p .l64)).setResp (handleResp (BitVec.ofNat 4 n)) := by
  unfold allocate at h
  split at h
  · rename_i hn; cases h; exact .inl ⟨hn, rfl⟩
  · rename_i n hn; cases h; exact .inr ⟨n, hn, rfl⟩

/-- The least free slot is free, is a slot, and every slot below it is allocated (R120). -/
theorem leastFree?_eq_some {s : State} {n : Nat} :
    s.leastFree? = some n ↔
      ∃ h : n < s.slots.length, s.slots[n].alloc = false ∧ ∀ m (hm : m < n), s.slots[m].alloc = true := by
  simp [State.leastFree?, List.findIdx?_eq_some_iff_getElem]

theorem leastFree?_eq_none {s : State} :
    s.leastFree? = none ↔ ∀ S ∈ s.slots, S.alloc = true := by
  simp [State.leastFree?, List.findIdx?_eq_none_iff]

theorem execFree_next {n : BitVec 4} {s t : State} (h : execFree n s = .next t) :
    (s.allocated? n = none ∧ t = s.setResp okResp)
      ∨ ∃ S, s.allocated? n = some S ∧ t = (s.setSlot n.toNat Slot.free).setResp okResp := by
  unfold execFree at h
  split at h
  · rename_i hn; cases h; exact .inl ⟨hn, rfl⟩
  · rename_i S hS; cases h; exact .inr ⟨S, hS, rfl⟩

theorem execStart_next {n fmt : BitVec 4} {s t : State} (h : execStart n fmt s = .next t) :
    (s.allocated? n = none ∧ t = s.raise .notAllocated)
      ∨ ∃ S, s.allocated? n = some S ∧ (layoutOfFmt S.prot fmt = none ∧ t = s.raise .badFormat
        ∨ ∃ f, layoutOfFmt S.prot fmt = some f
          ∧ t = (s.setSlot n.toNat (Slot.fresh s.cfg S.prot f)).setResp okResp) := by
  rcases onSlot_next h with h | ⟨S, hS, h⟩
  · exact .inl h
  · refine .inr ⟨S, hS, ?_⟩
    split at h
    · rename_i hf; cases h; exact .inl ⟨hf, rfl⟩
    · rename_i f hf; cases h; exact .inr ⟨f, hf, rfl⟩

theorem execGetData_next {n : BitVec 4} {s t : State} (h : execGetData n s = .next t) :
    (s.allocated? n = none ∧ t = s.raise .notAllocated)
      ∨ ∃ S, s.allocated? n = some S ∧ (S.dataValid = false ∧ t = s.raise .dataNotValid
        ∨ S.dataValid = true
          ∧ t = (s.setIdOut (firstBytes S.idBuf (payload S.variant))).setResp
              (resultResp (BitVec.ofNat 16 (payload S.variant)))) := by
  rcases onSlot_next h with h | ⟨S, hS, h⟩
  · exact .inl h
  · refine .inr ⟨S, hS, ?_⟩
    split at h
    · rename_i hd; cases h; exact .inr ⟨hd, rfl⟩
    · rename_i hd; cases h; exact .inl ⟨by simpa using hd, rfl⟩

end Sys2Proof.Machine
end

