-- ==== Sys2Proof/Laws/PerInstr.lean ====
section
/-! SUPPORT. The family EncodingRow: the word of an instruction has the bits its row of
spec/opcode_table.json fixes (that row's match, under its mask). One lemma per constructor. -/

namespace Sys2Proof.Laws

/-- The mask of each row, letter for letter the table's. -/
def rowMask : Instr → Word
  | .allocFdxb | .allocIndala | .allocIoprox | .allocJablotron | .allocParadox | .allocPac => 0xFFFFFFFF
  | .free _ | .getData _ | .modulateFdxb _ | .modulateIndala64 _ | .modulateIndala224 _
  | .modulateIoprox _ | .modulateJablotron _ | .modulateParadox _ | .modulatePac _
  | .writeT5577Fdxb _ | .writeT5577Indala64 _ | .writeT5577Indala224 _ | .writeT5577Ioprox _
  | .writeT5577Jablotron _ | .writeT5577Paradox _ | .writeT5577Pac _ => 0xFF0FFFFF
  | .start _ _ => 0xFF00FFFF
  | .feedFdxb _ _ | .feedIndala64 _ _ | .feedIndala224 _ _ | .feedIoprox _ _
  | .feedJablotron _ _ | .feedParadox _ _ | .feedPac _ _ => 0xFF0F0000
  | .genCrc16 _ | .genCrc8Maxim _ | .genXor8 _ | .genSumComp8 _ | .genOddPar7 _ => 0xFFFFFF00

/-- The match of each row, letter for letter the table's. -/
def rowMatch : Instr → Word
  | .allocFdxb => 0x00000000
  | .allocIndala => 0x01000000
  | .allocIoprox => 0x02000000
  | .allocJablotron => 0x03000000
  | .allocParadox => 0x04000000
  | .allocPac => 0x05000000
  | .free _ => 0x10000000
  | .start _ _ => 0x20000000
  | .feedFdxb _ _ | .feedIndala64 _ _ | .feedIndala224 _ _ | .feedIoprox _ _
  | .feedJablotron _ _ | .feedParadox _ _ | .feedPac _ _ => 0x30000000
  | .getData _ => 0x40000000
  | .modulateFdxb _ | .modulateIndala64 _ | .modulateIndala224 _ | .modulateIoprox _
  | .modulateJablotron _ | .modulateParadox _ | .modulatePac _ => 0x50000000
  | .writeT5577Fdxb _ | .writeT5577Indala64 _ | .writeT5577Indala224 _ | .writeT5577Ioprox _
  | .writeT5577Jablotron _ | .writeT5577Paradox _ | .writeT5577Pac _ => 0x60000000
  | .genCrc16 _ => 0x70000000
  | .genCrc8Maxim _ => 0x71000000
  | .genXor8 _ => 0x72000000
  | .genSumComp8 _ => 0x73000000
  | .genOddPar7 _ => 0x74000000

theorem and_append {m n : Nat} (a c : BitVec m) (b d : BitVec n) :
    (a ++ b) &&& (c ++ d) = (a &&& c) ++ (b &&& d) := by
  ext i hi
  simp only [BitVec.getElem_and, BitVec.getElem_append]
  split <;> rfl

/-- A packed word under a packed mask, field by field. -/
theorem packWord_and (op sel slot fmt op' sel' slot' fmt' : BitVec 4) (data data' : BitVec 16) :
    packWord op sel slot fmt data &&& packWord op' sel' slot' fmt' data'
      = packWord (op &&& op') (sel &&& sel') (slot &&& slot') (fmt &&& fmt') (data &&& data') :=
  (and_append (op ++ sel ++ slot ++ fmt) (op' ++ sel' ++ slot' ++ fmt') data data').trans
    (by rw [and_append, and_append, and_append]; rfl)

namespace EncodingRow

/-- The instruction's word matches its row of the opcode table. -/
def Statement (i : Instr) : Prop := encode i &&& rowMask i = rowMatch i

theorem allocFdxb : Statement .allocFdxb := rfl

theorem allocIndala : Statement .allocIndala := rfl

theorem allocIoprox : Statement .allocIoprox := rfl

theorem allocJablotron : Statement .allocJablotron := rfl

theorem allocParadox : Statement .allocParadox := rfl

theorem allocPac : Statement .allocPac := rfl

theorem free (slot : BitVec 4) : Statement (.free slot) := by
  have hm : rowMask (.free slot) = packWord 0xF 0xF 0x0 0xF 0xFFFF := rfl
  simp only [Statement, encode, hm, packWord_and]
  simp [packWord, rowMatch]

theorem start (slot : BitVec 4) (fmt : BitVec 4) : Statement (.start slot fmt) := by
  have hm : rowMask (.start slot fmt) = packWord 0xF 0xF 0x0 0x0 0xFFFF := rfl
  simp only [Statement, encode, hm, packWord_and]
  simp [packWord, rowMatch]

theorem feedFdxb (slot : BitVec 4) (data : BitVec 16) : Statement (.feedFdxb slot data) := by
  have hm : rowMask (.feedFdxb slot data) = packWord 0xF 0xF 0x0 0xF 0x0 := rfl
  simp only [Statement, encode, hm, packWord_and]
  simp [packWord, rowMatch]

theorem feedIndala64 (slot : BitVec 4) (data : BitVec 16) : Statement (.feedIndala64 slot data) := by
  have hm : rowMask (.feedIndala64 slot data) = packWord 0xF 0xF 0x0 0xF 0x0 := rfl
  simp only [Statement, encode, hm, packWord_and]
  simp [packWord, rowMatch]

theorem feedIndala224 (slot : BitVec 4) (data : BitVec 16) : Statement (.feedIndala224 slot data) := by
  have hm : rowMask (.feedIndala224 slot data) = packWord 0xF 0xF 0x0 0xF 0x0 := rfl
  simp only [Statement, encode, hm, packWord_and]
  simp [packWord, rowMatch]

theorem feedIoprox (slot : BitVec 4) (data : BitVec 16) : Statement (.feedIoprox slot data) := by
  have hm : rowMask (.feedIoprox slot data) = packWord 0xF 0xF 0x0 0xF 0x0 := rfl
  simp only [Statement, encode, hm, packWord_and]
  simp [packWord, rowMatch]

theorem feedJablotron (slot : BitVec 4) (data : BitVec 16) : Statement (.feedJablotron slot data) := by
  have hm : rowMask (.feedJablotron slot data) = packWord 0xF 0xF 0x0 0xF 0x0 := rfl
  simp only [Statement, encode, hm, packWord_and]
  simp [packWord, rowMatch]

theorem feedParadox (slot : BitVec 4) (data : BitVec 16) : Statement (.feedParadox slot data) := by
  have hm : rowMask (.feedParadox slot data) = packWord 0xF 0xF 0x0 0xF 0x0 := rfl
  simp only [Statement, encode, hm, packWord_and]
  simp [packWord, rowMatch]

theorem feedPac (slot : BitVec 4) (data : BitVec 16) : Statement (.feedPac slot data) := by
  have hm : rowMask (.feedPac slot data) = packWord 0xF 0xF 0x0 0xF 0x0 := rfl
  simp only [Statement, encode, hm, packWord_and]
  simp [packWord, rowMatch]

theorem getData (slot : BitVec 4) : Statement (.getData slot) := by
  have hm : rowMask (.getData slot) = packWord 0xF 0xF 0x0 0xF 0xFFFF := rfl
  simp only [Statement, encode, hm, packWord_and]
  simp [packWord, rowMatch]

theorem modulateFdxb (slot : BitVec 4) : Statement (.modulateFdxb slot) := by
  have hm : rowMask (.modulateFdxb slot) = packWord 0xF 0xF 0x0 0xF 0xFFFF := rfl
  simp only [Statement, encode, hm, packWord_and]
  simp [packWord, rowMatch]

theorem modulateIndala64 (slot : BitVec 4) : Statement (.modulateIndala64 slot) := by
  have hm : rowMask (.modulateIndala64 slot) = packWord 0xF 0xF 0x0 0xF 0xFFFF := rfl
  simp only [Statement, encode, hm, packWord_and]
  simp [packWord, rowMatch]

theorem modulateIndala224 (slot : BitVec 4) : Statement (.modulateIndala224 slot) := by
  have hm : rowMask (.modulateIndala224 slot) = packWord 0xF 0xF 0x0 0xF 0xFFFF := rfl
  simp only [Statement, encode, hm, packWord_and]
  simp [packWord, rowMatch]

theorem modulateIoprox (slot : BitVec 4) : Statement (.modulateIoprox slot) := by
  have hm : rowMask (.modulateIoprox slot) = packWord 0xF 0xF 0x0 0xF 0xFFFF := rfl
  simp only [Statement, encode, hm, packWord_and]
  simp [packWord, rowMatch]

theorem modulateJablotron (slot : BitVec 4) : Statement (.modulateJablotron slot) := by
  have hm : rowMask (.modulateJablotron slot) = packWord 0xF 0xF 0x0 0xF 0xFFFF := rfl
  simp only [Statement, encode, hm, packWord_and]
  simp [packWord, rowMatch]

theorem modulateParadox (slot : BitVec 4) : Statement (.modulateParadox slot) := by
  have hm : rowMask (.modulateParadox slot) = packWord 0xF 0xF 0x0 0xF 0xFFFF := rfl
  simp only [Statement, encode, hm, packWord_and]
  simp [packWord, rowMatch]

theorem modulatePac (slot : BitVec 4) : Statement (.modulatePac slot) := by
  have hm : rowMask (.modulatePac slot) = packWord 0xF 0xF 0x0 0xF 0xFFFF := rfl
  simp only [Statement, encode, hm, packWord_and]
  simp [packWord, rowMatch]

theorem writeT5577Fdxb (slot : BitVec 4) : Statement (.writeT5577Fdxb slot) := by
  have hm : rowMask (.writeT5577Fdxb slot) = packWord 0xF 0xF 0x0 0xF 0xFFFF := rfl
  simp only [Statement, encode, hm, packWord_and]
  simp [packWord, rowMatch]

theorem writeT5577Indala64 (slot : BitVec 4) : Statement (.writeT5577Indala64 slot) := by
  have hm : rowMask (.writeT5577Indala64 slot) = packWord 0xF 0xF 0x0 0xF 0xFFFF := rfl
  simp only [Statement, encode, hm, packWord_and]
  simp [packWord, rowMatch]

theorem writeT5577Indala224 (slot : BitVec 4) : Statement (.writeT5577Indala224 slot) := by
  have hm : rowMask (.writeT5577Indala224 slot) = packWord 0xF 0xF 0x0 0xF 0xFFFF := rfl
  simp only [Statement, encode, hm, packWord_and]
  simp [packWord, rowMatch]

theorem writeT5577Ioprox (slot : BitVec 4) : Statement (.writeT5577Ioprox slot) := by
  have hm : rowMask (.writeT5577Ioprox slot) = packWord 0xF 0xF 0x0 0xF 0xFFFF := rfl
  simp only [Statement, encode, hm, packWord_and]
  simp [packWord, rowMatch]

theorem writeT5577Jablotron (slot : BitVec 4) : Statement (.writeT5577Jablotron slot) := by
  have hm : rowMask (.writeT5577Jablotron slot) = packWord 0xF 0xF 0x0 0xF 0xFFFF := rfl
  simp only [Statement, encode, hm, packWord_and]
  simp [packWord, rowMatch]

theorem writeT5577Paradox (slot : BitVec 4) : Statement (.writeT5577Paradox slot) := by
  have hm : rowMask (.writeT5577Paradox slot) = packWord 0xF 0xF 0x0 0xF 0xFFFF := rfl
  simp only [Statement, encode, hm, packWord_and]
  simp [packWord, rowMatch]

theorem writeT5577Pac (slot : BitVec 4) : Statement (.writeT5577Pac slot) := by
  have hm : rowMask (.writeT5577Pac slot) = packWord 0xF 0xF 0x0 0xF 0xFFFF := rfl
  simp only [Statement, encode, hm, packWord_and]
  simp [packWord, rowMatch]

theorem genCrc16 (len : BitVec 8) : Statement (.genCrc16 len) := by
  have hm : rowMask (.genCrc16 len) = packWord 0xF 0xF 0xF 0xF 0xFF00 := rfl
  simp only [Statement, encode, hm, packWord_and]
  rw [show (0xFF00 : BitVec 16) = 0xFF#8 ++ 0x00#8 from rfl, and_append]
  simp [packWord, rowMatch]

theorem genCrc8Maxim (len : BitVec 8) : Statement (.genCrc8Maxim len) := by
  have hm : rowMask (.genCrc8Maxim len) = packWord 0xF 0xF 0xF 0xF 0xFF00 := rfl
  simp only [Statement, encode, hm, packWord_and]
  rw [show (0xFF00 : BitVec 16) = 0xFF#8 ++ 0x00#8 from rfl, and_append]
  simp [packWord, rowMatch]

theorem genXor8 (len : BitVec 8) : Statement (.genXor8 len) := by
  have hm : rowMask (.genXor8 len) = packWord 0xF 0xF 0xF 0xF 0xFF00 := rfl
  simp only [Statement, encode, hm, packWord_and]
  rw [show (0xFF00 : BitVec 16) = 0xFF#8 ++ 0x00#8 from rfl, and_append]
  simp [packWord, rowMatch]

theorem genSumComp8 (len : BitVec 8) : Statement (.genSumComp8 len) := by
  have hm : rowMask (.genSumComp8 len) = packWord 0xF 0xF 0xF 0xF 0xFF00 := rfl
  simp only [Statement, encode, hm, packWord_and]
  rw [show (0xFF00 : BitVec 16) = 0xFF#8 ++ 0x00#8 from rfl, and_append]
  simp [packWord, rowMatch]

theorem genOddPar7 (len : BitVec 8) : Statement (.genOddPar7 len) := by
  have hm : rowMask (.genOddPar7 len) = packWord 0xF 0xF 0xF 0xF 0xFF00 := rfl
  simp only [Statement, encode, hm, packWord_and]
  rw [show (0xFF00 : BitVec 16) = 0xFF#8 ++ 0x00#8 from rfl, and_append]
  simp [packWord, rowMatch]

end EncodingRow

end Sys2Proof.Laws
end

