-- ==== Sys2Proof/Laws/Step.lean ====
section
/-! SUPPORT. What the HOST's port and the step can do, said once (Machine/HostPort.lean, Machine/Step.lean). -/

namespace Sys2Proof.Machine

@[simp] theorem takeCommand_nil (s : State) : takeCommand [] s = (none, s.setHost []) := rfl
@[simp] theorem takeCommand_writeCmd (w : Word) (h : List HostAction) (s : State) :
    takeCommand (.writeCmd w :: h) s = (some w, (s.setCmd w).setHost h) := rfl
@[simp] theorem takeCommand_writeIdIn (k : Fin 28) (b : Byte) (h : List HostAction) (s : State) :
    takeCommand (.writeIdIn k b :: h) s = takeCommand h (s.setIdIn k b) := rfl
@[simp] theorem takeCommand_assertReset (h : List HostAction) (s : State) :
    takeCommand (.assertReset :: h) s = takeCommand h (State.resetWith s.cfg h) := rfl

/-- A reset finishes in the configuration it began in. -/
@[simp] theorem State.resetWith_cfg (c : Config) (h : List HostAction) : (State.resetWith c h).cfg = c := rfl

/-- No HOST access changes the configuration (R403). -/
theorem takeCommand_cfg (h : List HostAction) (s : State) : (takeCommand h s).2.cfg = s.cfg := by
  induction h generalizing s with
  | nil => rfl
  | cons a h ih => cases a <;> simp [ih]

/-- A property that ID_IN writes, a CMD write, a reset and the HOST's moving on keep, the fetch keeps. -/
theorem takeCommand_inv (P : State → Prop) (hIdIn : ∀ s k b, P s → P (s.setIdIn k b))
    (hCmd : ∀ s w, P s → P (s.setCmd w)) (hReset : ∀ s h, P s → P (State.resetWith s.cfg h))
    (hHost : ∀ s h, P s → P (s.setHost h)) (h : List HostAction) (s : State) (hs : P s) :
    P (takeCommand h s).2 := by
  induction h generalizing s with
  | nil => exact hHost _ _ hs
  | cons a h ih =>
    cases a with
    | writeCmd w => exact hHost _ _ (hCmd _ _ hs)
    | writeIdIn k b => exact ih _ (hIdIn _ _ _ hs)
    | assertReset => exact ih _ (hReset _ _ hs)

/-- What running a command word does: the status its refused decoding raises, or its instruction. -/
theorem runWord_next {w : Word} {s t : State} (h : runWord w s = .next t) :
    (∃ e, decode (s.variantAt (fieldSlot w)) w = .error e ∧ t = s.raise (statusOf e))
      ∨ ∃ i, decode (s.variantAt (fieldSlot w)) w = .ok i ∧ exec i s = .next t := by
  unfold runWord at h
  split at h
  · rename_i i hi; exact .inr ⟨i, hi, h⟩
  · rename_i e he; cases h; exact .inl ⟨e, he, rfl⟩

/-- What a step does: it waits, or runs the HOST's next command word. -/
theorem step_next {s t : State} (h : step s = .next t) :
    ((takeCommand s.host s).1 = none ∧ t = (takeCommand s.host s).2)
      ∨ ∃ w, (takeCommand s.host s).1 = some w ∧ runWord w (takeCommand s.host s).2 = .next t := by
  unfold step State.fetch at h
  split at h
  · rename_i w u hw; exact .inr ⟨w, by rw [hw], by rw [hw]; exact h⟩
  · rename_i u hw; cases h; exact .inl ⟨by rw [hw], by rw [hw]⟩

/-- The HOST's next access is a CMD write: the step is that word's. -/
theorem step_of_writeCmd {s : State} {w : Word} {rest : List HostAction} (h : s.host = .writeCmd w :: rest) :
    step s = runWord w ((s.setCmd w).setHost rest) := by
  simp [step, State.fetch, h]

end Sys2Proof.Machine
end

