-- ==== Sys2Proof/Tests/Slice0.lean ====
section
/-! SUPPORT. The model's own tests: the WellFormed smoke test, words written out from the encoding tables,
one-step tests with the values of 95_test_vectors.md, and a witness for the hypotheses of each statement. -/

set_option maxRecDepth 8000

open Sys2Proof Sys2Proof.Machine

namespace Sys2Proof.Tests

/-! ### Helpers -/

/-- A block whose slot 0 is `S` and whose slot 1 is free. -/
abbrev withSlot (S : Slot) : State := { State.reset with slots := [S, Slot.free] }

/-- The slot START leaves, in the configuration of 95_test_vectors.md. -/
abbrev started (p : Prot) (f : Layout := .l64) : Slot := Slot.fresh Config.reference p f

/-- ID_IN with the listed bytes and zeros behind them. -/
abbrev withIdIn (s : State) (id : List Byte) : State := { s with idIn := padId id }

/-- The next state has the property. -/
abbrev nextHas (o : Outcome) (p : State → Bool) : Bool :=
  match o with
  | .next t => p t
  | .fault _ => false
  | .refused _ => false

/-- The command completes with this RESP. -/
abbrev answers (o : Outcome) (r : Nat) : Bool := nextHas o fun t => t.resp.toNat == r

/-- The word, as the first command after reset, completes with this RESP. -/
abbrev firstWord (w r : Nat) : Bool := answers (step (State.reset.withFetchWord 32 w)) r

/-- Slot 0 after the command. -/
abbrev slot0Has (o : Outcome) (p : Slot → Bool) : Bool := nextHas o fun t => t.slots[0]?.any p

/-- The segments a list of levels and durations stands for. -/
abbrev segs (l : List (Bool × Nat)) : List Segment := l.map fun x => ⟨x.1, BitVec.ofNat 16 x.2⟩

/-- The identifiers of W4, W3, W2 and of V-PAC-1. -/
abbrev w4 : List Byte := [0x3F, 0xFF, 0xFF, 0xFF, 0xFF, 0x03, 0xFF, 0, 0, 0, 0, 0, 0, 0, 0, 0]
abbrev w3 : List Byte := [0x12, 0x34, 0x56, 0x78, 0x9A, 0xBC]
abbrev w2 : List Byte := [1, 2, 3, 4, 0]
abbrev digits : List Byte := [0x31, 0x32, 0x33, 0x34, 0x35, 0x36, 0x37, 0x38, 0x39]

/-! ### WellFormed: each check refuses an ill-formed term -/

theorem test_wf_start_fmt : Instr.wf (.start 0 2) = false ∧ Instr.wf (.start 0 1) = true := by decide
theorem test_wf_crc16_len : Instr.wf (.genCrc16 29) = false ∧ Instr.wf (.genCrc16 28) = true := by decide
theorem test_wf_crc8_len : Instr.wf (.genCrc8Maxim 29) = false := by decide
theorem test_wf_xor8_len : Instr.wf (.genXor8 29) = false := by decide
theorem test_wf_sumcomp8_len : Instr.wf (.genSumComp8 255) = false := by decide
theorem test_wf_oddpar7_len :
    Instr.wf (.genOddPar7 0) = false ∧ Instr.wf (.genOddPar7 2) = false ∧ Instr.wf (.genOddPar7 1) = true := by
  decide
theorem test_wf_row_of_another_slot :
    Instr.selectedBy .fdxb (.feedPac 0 0) = false ∧ Instr.selectedBy .indala64 (.modulateIndala224 0) = false
      ∧ Instr.selectedBy .ioprox (.writeT5577Paradox 0) = false ∧ Instr.selectedBy .pac (.feedPac 0 0) = true := by
  decide
theorem test_wf_config : Config.reference.wf = true ∧ Config.wf { Config.reference with numSlots := 0 } = false
    ∧ Config.wf { Config.reference with numSlots := 17 } = false
    ∧ Config.wf { Config.reference with pskN := 31 } = false
    ∧ Config.wf { Config.reference with fskNIoprox := 0 } = false
    ∧ Config.wf { Config.reference with bitratePac := 9 } = false
    ∧ Config.wf { Config.reference with bitratePac := 2048 } = false
    ∧ Config.wf { Config.reference with indala := { IndalaMap.default with p1Pos := 38 } } = false := by decide

theorem test_wf_pseudo : Pseudo.wf (.feeds 0 32768) = false ∧ Pseudo.wf (.feeds 0 (-32769)) = false
    ∧ Pseudo.wf (.feeds 0 32767) = true ∧ Pseudo.wf (.feeds 0 (-32768)) = true ∧ Pseudo.wf (.crc16 29) = false := by
  decide

/-! ### Decoding: every constructor's word, written out from R91 to R95, R100 -/

theorem test_decode_allocFdxb : decode .fdxb 0b0000_0000_0000_0000_0000000000000000 = .ok .allocFdxb := by decide
theorem test_decode_allocIndala : decode .fdxb 0b0000_0001_0000_0000_0000000000000000 = .ok .allocIndala := by decide
theorem test_decode_allocIoprox : decode .fdxb 0b0000_0010_0000_0000_0000000000000000 = .ok .allocIoprox := by decide
theorem test_decode_allocJablotron : decode .fdxb 0b0000_0011_0000_0000_0000000000000000 = .ok .allocJablotron := by
  decide
theorem test_decode_allocParadox : decode .fdxb 0b0000_0100_0000_0000_0000000000000000 = .ok .allocParadox := by decide
theorem test_decode_allocPac : decode .fdxb 0b0000_0101_0000_0000_0000000000000000 = .ok .allocPac := by decide
theorem test_decode_free : decode .fdxb 0b0001_0000_0101_0000_0000000000000000 = .ok (.free 5) := by decide
theorem test_decode_start : decode .pac 0b0010_0000_0001_0010_0000000000000000 = .ok (.start 1 2) := by decide
theorem test_decode_feedFdxb : decode .fdxb 0b0011_0000_0000_0000_0000000000010000 = .ok (.feedFdxb 0 16) := by decide
theorem test_decode_feedIndala64 :
    decode .indala64 0b0011_0000_0001_0000_1111111111111110 = .ok (.feedIndala64 1 0xFFFE) := by decide
theorem test_decode_feedIndala224 :
    decode .indala224 0b0011_0000_1111_0000_0000000000000001 = .ok (.feedIndala224 15 1) := by decide
theorem test_decode_feedIoprox :
    decode .ioprox 0b0011_0000_0010_0000_0000000001100100 = .ok (.feedIoprox 2 100) := by decide
theorem test_decode_feedJablotron :
    decode .jablotron 0b0011_0000_0000_0000_0000000000100000 = .ok (.feedJablotron 0 32) := by decide
theorem test_decode_feedParadox :
    decode .paradox 0b0011_0000_0100_0000_1000000000000000 = .ok (.feedParadox 4 0x8000) := by decide
theorem test_decode_feedPac : decode .pac 0b0011_0000_0001_0000_0000000000000000 = .ok (.feedPac 1 0) := by decide
theorem test_decode_getData : decode .fdxb 0b0100_0000_0001_0000_0000000000000000 = .ok (.getData 1) := by decide
theorem test_decode_modulate :
    decode .fdxb 0b0101_0000_0001_0000_0000000000000000 = .ok (.modulateFdxb 1)
      ∧ decode .indala64 0b0101_0000_0010_0000_0000000000000000 = .ok (.modulateIndala64 2)
      ∧ decode .indala224 0b0101_0000_0011_0000_0000000000000000 = .ok (.modulateIndala224 3)
      ∧ decode .ioprox 0b0101_0000_0100_0000_0000000000000000 = .ok (.modulateIoprox 4)
      ∧ decode .jablotron 0b0101_0000_0101_0000_0000000000000000 = .ok (.modulateJablotron 5)
      ∧ decode .paradox 0b0101_0000_0110_0000_0000000000000000 = .ok (.modulateParadox 6)
      ∧ decode .pac 0b0101_0000_0111_0000_0000000000000000 = .ok (.modulatePac 7) := by decide
theorem test_decode_write :
    decode .fdxb 0b0110_0000_0001_0000_0000000000000000 = .ok (.writeT5577Fdxb 1)
      ∧ decode .indala64 0b0110_0000_0010_0000_0000000000000000 = .ok (.writeT5577Indala64 2)
      ∧ decode .indala224 0b0110_0000_0011_0000_0000000000000000 = .ok (.writeT5577Indala224 3)
      ∧ decode .ioprox 0b0110_0000_0100_0000_0000000000000000 = .ok (.writeT5577Ioprox 4)
      ∧ decode .jablotron 0b0110_0000_0101_0000_0000000000000000 = .ok (.writeT5577Jablotron 5)
      ∧ decode .paradox 0b0110_0000_0110_0000_0000000000000000 = .ok (.writeT5577Paradox 6)
      ∧ decode .pac 0b0110_0000_0111_0000_0000000000000000 = .ok (.writeT5577Pac 7) := by decide
theorem test_decode_gen :
    decode .fdxb 0b0111_0000_0000_0000_0000000000001001 = .ok (.genCrc16 9)
      ∧ decode .fdxb 0b0111_0001_0000_0000_0000000000011100 = .ok (.genCrc8Maxim 28)
      ∧ decode .fdxb 0b0111_0010_0000_0000_0000000000000000 = .ok (.genXor8 0)
      ∧ decode .fdxb 0b0111_0011_0000_0000_0000000000000101 = .ok (.genSumComp8 5)
      ∧ decode .fdxb 0b0111_0100_0000_0000_0000000000000001 = .ok (.genOddPar7 1) := by decide
/-- The refused words of V-ENC-1. -/
theorem test_decode_illegal :
    [0x80000000, 0xF0000000, 0x07100000, 0x00000001, 0x00010000, 0x11000000, 0x20000001, 0x21000000, 0x30010000,
      0x40010000, 0x50000001, 0x60000001, 0x75000000, 0x7500001D, 0x70000100, 0x7000FF00, 0x70100001,
      0x01000001].map (decode .jablotron) = List.replicate 18 (.error .illegal) := by decide
theorem test_decode_bad_prot :
    [0x06000000, 0x07000000, 0x0F000000].map (decode .fdxb) = List.replicate 3 (.error .badProt) := by decide
/-- START s1, 1 by R91 and R100; the word R122's example prints is an ALLOC word with nonzero SLOT and FMT (log 20). -/
theorem test_decode_start224 : decode .indala64 0x20110000 = .ok (.start 1 1)
    ∧ decode .indala64 0x02110000 = .error .illegal := by decide
/-- The words of P5 and P3, by their pseudo-instructions (R101). -/
theorem test_pseudo_words :
    Pseudo.word (.start224 0) = 0x20010000 ∧ Pseudo.word (.start64 0) = 0x20000000 ∧ Pseudo.word (.restart 1) = 0x20100000
      ∧ Pseudo.word (.feeds 0 (-2)) = 0x3000FFFE ∧ Pseudo.word (.feedi 0 16) = 0x30000010
      ∧ Pseudo.word (.crc16 9) = 0x70000009 := by decide

/-! ### Descriptor operations (V-DESC, V-ENC, P4) -/

theorem test_alloc_least_free : answers (exec .allocFdxb State.reset) 0
    ∧ answers (exec .allocPac (withSlot (started .fdxb))) 0x100
    ∧ answers (exec .allocPac { State.reset with slots := [started .fdxb, started .pac] }) 3 := by decide
theorem test_alloc_prot :
    [Instr.allocFdxb, .allocIndala, .allocIoprox, .allocJablotron, .allocParadox, .allocPac].map
        (fun i => match exec i State.reset with | .next t => t.slots.map (fun S => (S.alloc, S.prot)) | _ => [])
      = [.fdxb, .indala, .ioprox, .jablotron, .paradox, .pac].map (fun p => [(true, p), (false, .fdxb)]) := by decide
theorem test_free_slot : nextHas (exec (.free 0) (withSlot (started .pac))) fun t =>
    t.slots == [Slot.free, Slot.free] && t.resp == 0 := by decide
theorem test_free_not_allocated : answers (exec (.free 5) State.reset) 0 := by decide
theorem test_start_resets : slot0Has (exec (.start 0 1) (withSlot { started .indala with dataValid := true }))
    fun S => S == started .indala .l224 := by decide
theorem test_start_bad_format : answers (exec (.start 0 1) (withSlot (started .jablotron))) 5
    ∧ answers (exec (.start 1 2) State.reset) 4 := by decide
theorem test_getData : nextHas (exec (.getData 0)
      (withSlot { started .jablotron with dataValid := true, idBuf := padId [1, 2, 3, 4, 5] })) fun t =>
    t.resp == 0x00050000 && t.idOut == padId [1, 2, 3, 4, 5] := by decide
theorem test_getData_not_valid : answers (exec (.getData 0) (withSlot (started .jablotron))) 7 := by decide

/-! ### FEED: the last bit of a frame, and a frame that fails -/

/-- W4 through FEED_FDXB: the last bit is 0, a FULL interval. -/
theorem test_feedFdxb_captures : slot0Has
    (exec (.feedFdxb 0 32) (withSlot { started .fdxb with
      sync := true, fdxb := ⟨0x001FFFFFFFFFFFFFF09CC02010000000, 127⟩ }))
    fun S => S.dataValid && S.idBuf == padId w4 && S.fdxb == ⟨0, 0⟩ := by decide
/-- V-FDXB-4: the CRC field with F[64] flipped. -/
theorem test_feedFdxb_rejects : answers
    (exec (.feedFdxb 0 32) (withSlot { started .fdxb with
      sync := true, fdxb := ⟨0x001FFFFFFFFFFFFFB09CC02010000000, 127⟩ })) 0 := by decide
/-- W5 through FEED_INDALA64: the window sum keeps its sign, so the last bit is 0. -/
theorem test_feedIndala64_captures : slot0Has
    (exec (.feedIndala64 0 0) (withSlot { started .indala with
      psk := ⟨1 :: List.replicate 31 0, 31, true, 2⟩, indala := ⟨0x500000004BC44139, 63⟩ }))
    fun S => S.idBuf == padId [0xAB, 0x12, 0x34] && S.dataValid && S.psk.cnt == 16 && S.psk.prevSum == 1 := by decide
/-- The sum changes its sign, so the last bit is 1 and the trailer fails (V-IND-5, t = 63). -/
theorem test_feedIndala64_rejects : slot0Has
    (exec (.feedIndala64 0 0) (withSlot { started .indala with
      psk := ⟨1 :: List.replicate 31 0, 31, true, -2⟩, indala := ⟨0x500000004BC44139, 63⟩ }))
    fun S => !S.dataValid && S.indala == ⟨0xA000000097888273, 64⟩ := by decide
/-- V-IND-6: DONE with UNVERIFIED. -/
theorem test_feedIndala224_captures : answers
    (exec (.feedIndala224 0 0) (withSlot { started .indala .l224 with
      psk := ⟨1 :: List.replicate 31 0, 31, true, 2⟩
      indala := ⟨BitVec.ofNat 224 (0xA000000080 * 2 ^ 183), 223⟩ })) 0x30 := by decide
/-- The window of W2 ends with a 1: the 64th sample of a wave of period 10. -/
theorem test_feedIoprox_captures : slot0Has
    (exec (.feedIoprox 0 100) (withSlot { started .ioprox with
      fsk := ⟨(List.range 64).map fun k => if k % 10 < 5 then 100 else -100, 63⟩
      ioprox := ⟨.collect, 9, BitVec.ofNat 55 (0x0078406050382417 / 2), 54⟩ }))
    fun S => S.dataValid && S.idBuf == padId [1, 2, 3, 4, 5] && S.ioprox == ⟨.search, 0, 0, 0⟩
      && S.fsk.cnt == 0 := by decide
/-- W2 with checksum 0x06 (V-IOP-2). -/
theorem test_feedIoprox_rejects : slot0Has
    (exec (.feedIoprox 0 100) (withSlot { started .ioprox with
      fsk := ⟨(List.range 64).map fun k => if k % 10 < 5 then 100 else -100, 63⟩
      ioprox := ⟨.collect, 9, BitVec.ofNat 55 (0x007840605038241B / 2), 54⟩ }))
    fun S => !S.dataValid && S.ioprox == ⟨.search, 0, 0, 0⟩ := by decide
/-- W1 through FEED_JABLOTRON: the last bit is 1, a HALF interval. -/
theorem test_feedJablotron_captures : slot0Has
    (exec (.feedJablotron 0 16) (withSlot { started .jablotron with
      sync := true, jablotron := ⟨BitVec.ofNat 64 (0xFFFF01020304053B / 2), 63⟩ }))
    fun S => S.dataValid && S.idBuf == padId [1, 2, 3, 4, 5] && S.jablotron == ⟨0, 0⟩ && S.sync := by decide
/-- V-RST-2: an INVALID interval clears the accumulator and leaves sync set. -/
theorem test_feedJablotron_invalid : slot0Has
    (exec (.feedJablotron 0 100) (withSlot { started .jablotron with jablotron := ⟨3, 2⟩ }))
    fun S => S.sync && S.jablotron == ⟨0, 0⟩ := by decide
/-- V-PAR-3: the last bit of W3's buffer is 0, the 50th sample of a wave of period 8; UNVERIFIED. -/
theorem test_feedParadox_captures : answers
    (exec (.feedParadox 0 100) (withSlot { started .paradox with
      fsk := ⟨(List.range 50).map fun k => if k % 8 < 4 then 100 else -100, 49⟩
      paradox := ⟨.collect, 0x0F, 8, BitVec.ofNat 96 (0x0F000000123456789ABC0600 / 2), 95⟩ })) 0x30 := by decide
theorem test_feedPac_unsupported : answers (exec (.feedPac 0 0) (withSlot (started .pac))) 6 := by decide

/-! ### MODULATE (V-MOD-2) -/

theorem test_modulateFdxb : nextHas (exec (.modulateFdxb 0) (withIdIn (withSlot (started .fdxb)) w4)) fun t =>
    t.resp == 0x01000000 && (t.waves[0].segs.take 4) == segs [(false, 16), (false, 16), (true, 16), (true, 16)] := by
  decide
theorem test_modulateIndala64 :
    nextHas (exec (.modulateIndala64 0) (withIdIn (withSlot (started .indala)) [0xAB, 0x12, 0x34])) fun t =>
      t.resp == 0x00800000 && t.waves[1].segs.drop 124 == segs (List.replicate 4 (true, 16)) := by decide
theorem test_modulateIndala224 :
    answers (exec (.modulateIndala224 0) (withSlot (started .indala .l224))) 0x01C00000 := by decide
theorem test_modulateIoprox :
    answers (exec (.modulateIoprox 0) (withIdIn (withSlot (started .ioprox)) w2)) 0x03B80000 := by decide
theorem test_modulateJablotron :
    nextHas (exec (.modulateJablotron 0) (withSlot (started .jablotron))) fun t =>
      t.resp == 0x00800000
        && t.waves[3].segs.drop 124 == segs [(true, 32), (false, 32), (true, 32), (true, 32)] := by decide
theorem test_modulateParadox :
    answers (exec (.modulateParadox 0) (withIdIn (withSlot (started .paradox)) w3)) 0x04480000 := by decide
theorem test_modulatePac :
    nextHas (exec (.modulatePac 0) (withIdIn (withSlot (started .pac)) digits)) fun t =>
      t.waves[5].len == 128
        && t.waves[5].segs.drop 124 == segs [(false, 32), (false, 32), (false, 32), (true, 32)] := by decide

/-! ### WRITE_T5577 (V-T5577-1) -/

/-- RESP and the blocks WRITE_T5577 leaves. -/
abbrev writes (o : Outcome) (blk : List Nat) : Bool :=
  nextHas o fun t => t.resp.toNat == 65536 * blk.length && t.blockCount.toNat == blk.length
    && t.blocks.toList.map BitVec.toNat == blk ++ List.replicate (8 - blk.length) 0

theorem test_writeFdxb : writes (exec (.writeT5577Fdxb 0) (withIdIn (withSlot (started .fdxb)) w4))
    [0x00098080, 0x003FFFFF, 0xFFFFFFFF, 0xE1398040, 0x20000000] := by decide
theorem test_writeIndala64 :
    writes (exec (.writeT5577Indala64 0) (withIdIn (withSlot (started .indala)) [0xAB, 0x12, 0x34]))
      [0x00081040, 0xA0000000, 0x97888272] := by decide
theorem test_writeIndala224 :
    writes (exec (.writeT5577Indala224 0)
        (withIdIn (withSlot (started .indala .l224)) ((List.range 28).map (BitVec.ofNat 8))))
      [0x000810E0, 0x00010203, 0x04050607, 0x08090A0B, 0x0C0D0E0F, 0x10111213, 0x14151617, 0x18191A1B] := by decide
theorem test_writeIoprox : writes (exec (.writeT5577Ioprox 0) (withIdIn (withSlot (started .ioprox)) w2))
    [0x00147040, 0x00784060, 0x50382417] := by decide
theorem test_writeJablotron :
    writes (exec (.writeT5577Jablotron 0) (withIdIn (withSlot (started .jablotron)) [1, 2, 3, 4, 5]))
      [0x00158040, 0xFFFF0102, 0x0304053B] := by decide
theorem test_writeParadox : writes (exec (.writeT5577Paradox 0) (withIdIn (withSlot (started .paradox)) w3))
    [0x00107060, 0xF0000001, 0x23456789, 0xABC06000] := by decide
theorem test_writePac : writes (exec (.writeT5577Pac 0) (withIdIn (withSlot (started .pac)) digits))
    [0x00080080, 0xFF204990, 0x6D192659, 0xB1655B36, 0xDD90E421] := by decide

/-! ### GEN (V-GEN-1) -/

theorem test_genCrc16 : answers (exec (.genCrc16 9) (withIdIn State.reset digits)) 0x29B10000
    ∧ answers (exec (.genCrc16 10) State.reset) 0xE1390000 := by decide
theorem test_genCrc16_bad_len : answers (exec (.genCrc16 29) State.reset) 8 := by decide
theorem test_genCrc8Maxim : answers (exec (.genCrc8Maxim 9) (withIdIn State.reset digits)) 0x00A10000
    ∧ answers (exec (.genCrc8Maxim 9) (withIdIn State.reset ([0x55, 0x55, 0x55] ++ w3))) 0x00D80000 := by decide
theorem test_genXor8 : answers (exec (.genXor8 5) (withIdIn State.reset [1, 2, 3, 4, 5])) 0x00010000 := by decide
theorem test_genSumComp8 : answers (exec (.genSumComp8 5) (withIdIn State.reset [0xF0, 1, 2, 3, 4])) 0x00050000
    ∧ answers (exec (.genSumComp8 0) State.reset) 0x00FF0000 := by decide
theorem test_genOddPar7 : answers (exec (.genOddPar7 1) (withIdIn State.reset [0x80])) 0x00010000
    ∧ answers (exec (.genOddPar7 1) (withIdIn State.reset [0x7F])) 0 := by decide
theorem test_genOddPar7_bad_len : answers (exec (.genOddPar7 2) State.reset) 8 := by decide

/-! ### The step, the demodulators, the renderers -/

theorem test_step_first_words : firstWord 0x40000000 4 ∧ firstWord 0x72000000 0 ∧ firstWord 0x7000000A 0xE1390000
    ∧ firstWord 0x05000000 0 ∧ firstWord 0x80000000 1 ∧ firstWord 0x07000000 2 ∧ firstWord 0x30000010 4 := by decide
/-- The ID_IN write and the reset before the command are done first (R79, R400). -/
theorem test_step_host_order :
    nextHas (step { withSlot (started .pac) with
      host := [.writeIdIn 0 7, .assertReset, .writeIdIn 1 9, .writeCmd 0x72000002] }) fun t =>
      t.resp == 0x00090000 && t.idIn == padId [0, 9] && t.slots == [Slot.free, Slot.free] && t.host == [] := by decide
/-- V-BP-2: 16, 16, 32, 48, 16 from non-sync. -/
theorem test_biphase_steps :
    [bpStep false 16, bpStep true 16, bpStep true 32, bpStep true 48, bpStep false 16, bpStep false 48, bpStep true 100]
      = [⟨none, false, true⟩, ⟨some true, false, true⟩, ⟨some false, false, true⟩, ⟨some true, false, false⟩,
        ⟨none, false, true⟩, ⟨none, true, true⟩, ⟨none, true, true⟩] := by decide
/-- V-FSK-1 and V-FSK-2. -/
theorem test_fsk_tones : fskDecide 0 ((List.range 50).map fun k => if k % 10 < 5 then 100 else -100) = true
    ∧ fskDecide 0 ((List.range 50).map fun k => if k % 8 < 4 then 100 else -100) = false := by decide
/-- V-FSK-5: the zero window, the constant window, and the tie of an impulse. -/
theorem test_fsk_ties : fskDecide 0 (List.replicate 50 0) = false ∧ fskDecide 0 (List.replicate 50 100) = false
    ∧ fskDecide 0 (100 :: List.replicate 49 0) = false := by decide
/-- V-PSK-3: the first window seeds, and a zero product emits 0. -/
theorem test_psk_zero_input : (pskStep 32 ⟨List.replicate 32 0, 31, false, 0⟩ 0).2 = none
    ∧ (pskStep 32 ⟨List.replicate 32 0, 31, true, 0⟩ 0).2 = some false := by decide
/-- V-MOD-1. -/
theorem test_renderers : renderBiphase [false, true] 33 = segs [(false, 16), (false, 17), (true, 16), (false, 17)]
    ∧ renderPsk [false, true] 33 = segs [(false, 16), (false, 17), (true, 16), (true, 17)]
    ∧ renderNrz [true, true, false] 32 = segs [(true, 32), (true, 32), (false, 32)]
    ∧ renderFsk [true, false] 17
        = segs [(true, 5), (false, 5), (true, 4), (false, 4), (true, 4), (false, 4)] := by decide
/-- A HOST read of a segment past the last one gives (0,0); CMD is not readable (R70, R125). -/
theorem test_host_reads : State.reset.hostRead (.wave .pac 127) = some (.segment ⟨false, 0⟩)
    ∧ State.reset.hostRead (.wave .pac 128) = none ∧ State.reset.hostRead .cmd = none
    ∧ blockByte 0x12345678 0 = 0x12 ∧ blockByte 0x12345678 3 = 0x78 := by decide

/-! ### Witnesses: a state and operands that meet the hypotheses of each statement -/

/-- The slot an index names, and that it is allocated: the hypotheses most statements share. -/
abbrev names (s : State) (n : BitVec 4) (S : Slot) : Prop := s.slots[n.toNat]? = some S ∧ S.alloc = true

/-- Sixteen slots, all allocated but the last. -/
abbrev sixteen : State := { State.reset with slots := List.replicate 15 (started .pac) ++ [Slot.free] }

/-- The HOST is going to write these words. -/
abbrev writing (s : State) (ws : List Word) : State := { s with host := ws.map .writeCmd }

theorem test_witness_DecodeOfEncodeGivesTheInstruction :
    Instr.selectedBy .pac (.feedPac 15 0xFFFF) = true ∧ Instr.selectedBy .ioprox (.genOddPar7 255) = true := by decide
theorem test_witness_EncodeOfDecodeGivesTheWord :
    decode .indala224 0x30F0FFFF = .ok (.feedIndala224 15 0xFFFF) := by decide
/-- Both clauses, with words at the edge between them. -/
theorem test_witness_IllegalWordsHaveNoEffectButTheirStatus :
    (writing State.reset [0x06000000]).host = .writeCmd 0x06000000 :: []
      ∧ (∀ w ∈ [0x80000000, 0x06000001, 0x70000100, 0x75000000], illegalWord w) := by decide
theorem test_witness_IllegalWordsReservedProt :
    ∀ w ∈ [0x06000000, 0x0F000000], ¬ illegalWord w ∧ w / 2 ^ 28 = 0 ∧ 6 ≤ w / 2 ^ 24 % 16 := by decide
theorem test_witness_StepRunsTheDecodedInstruction :
    (writing (withSlot (started .ioprox)) [0x30008000]).host = .writeCmd 0x30008000 :: []
      ∧ decode ((withSlot (started .ioprox)).variantAt (fieldSlot 0x30008000)) 0x30008000
        = .ok (.feedIoprox 0 0x8000) := by decide
theorem test_witness_HostAccessesComeBeforeTheCommand :
    State.host { State.reset with host := [.writeIdIn 27 255, .assertReset] } = .writeIdIn 27 255 :: [.assertReset]
      ∧ State.host { State.reset with host := [.assertReset] } = .assertReset :: []
      ∧ State.reset.host = [] := by decide
theorem test_witness_ErrorsArePrecise :
    ∃ t, step (writing State.reset [0x40000000]) = .next t ∧ respStatus t.resp ≠ 0 := ⟨_, rfl, by decide⟩
theorem test_witness_StatusFollowsThePriorityList :
    (writing sixteen [0x20E20000]).host = .writeCmd 0x20E20000 :: [] ∧ specStatus sixteen 0x20E20000 = 5
      ∧ specStatus sixteen 0x20F20000 = 4 ∧ specStatus sixteen 0x7500001D = 1 := by decide
theorem test_witness_StepKeepsTheInvariant :
    (writing (withSlot (started .indala .l224)) [0x3000FFFF]).Inv
      ∧ ∃ t, step (writing (withSlot (started .indala .l224)) [0x3000FFFF]) = .next t := ⟨by decide, _, rfl⟩
theorem test_witness_ResetHasTheInvariant : Config.wf { Config.reference with numSlots := 16, bitratePac := 2047 } = true
    ∧ Config.wf { Config.reference with numSlots := 1, bitratePac := 10 } = true := by decide
theorem test_witness_NoCommandWritesIdInOrTheConfiguration :
    ∃ t, exec (.modulatePac 0) (withSlot (started .pac)) = .next t := ⟨_, rfl⟩
/-- Each of the four buffers really changes under its writer. -/
theorem test_witness_OutputBuffersHaveOneWriter :
    nextHas (exec (.getData 0) (withSlot { started .ioprox with dataValid := true, idBuf := padId [1] }))
        (fun t => t.idOut != State.reset.idOut)
      ∧ nextHas (exec (.modulatePac 0) (withSlot (started .pac)))
        (fun t => t.waves[protCode .pac] != State.reset.waves[protCode .pac])
      ∧ nextHas (exec (.writeT5577Pac 0) (withSlot (started .pac))) (fun t => t.blocks != State.reset.blocks)
      ∧ nextHas (exec .allocPac State.reset) (fun t => t.slots != State.reset.slots) := by decide
theorem test_witness_SlotsAreIsolated :
    nextHas (exec (.feedFdxb 0 16) (withSlot (started .fdxb))) (fun t => t.slots[0]? != some (started .fdxb))
      ∧ nextHas (exec .allocPac sixteen) (fun t => t.slots[15]? != some Slot.free) := by decide
/-- Two machines that share slot 0 alone. -/
theorem test_witness_FeedResultsDependOnTheSlotAlone :
    let s := writing (withSlot (started .fdxb)) [0x30000010, 0x30000020]
    let t := writing (withIdIn { State.reset with slots := [started .fdxb, started .pac], resp := 5 } w2)
      [0x30000010, 0x30000020]
    [16, 32] ≠ ([] : List (BitVec 16)) ∧ s.cfg = t.cfg ∧ s.slots[(0#4).toNat]? = t.slots[(0#4).toNat]?
      ∧ s.host = feedWords 0 [16, 32] ∧ t.host = feedWords 0 [16, 32] ∧ s ≠ t := by decide
theorem test_witness_AllocZeroesTheLeastFreeSlot :
    sixteen.slots[15]? = some Slot.free ∧ Slot.free.alloc = false
      ∧ (∀ m < 15, sixteen.slots[m]?.any (·.alloc) = true)
      ∧ State.reset.slots[0]? = some Slot.free := by decide
theorem test_witness_FreeClearsAnAllocatedSlot :
    names sixteen 14 (started .pac) ∧ sixteen.slots[(15#4).toNat]? = some Slot.free
      ∧ State.reset.slots[(15#4).toNat]? = none := by decide
theorem test_witness_StartResetsTheSlot :
    names (withSlot (started .indala)) 0 (started .indala) ∧ (started .indala).prot = .indala
      ∧ names (withSlot (started .pac)) 0 (started .pac) ∧ (started .pac).prot ≠ .indala
      ∧ State.reset.slots[(2#4).toNat]? = none := by decide
/-- START, another command on the slot, and START again. -/
theorem test_witness_StartIsIdempotent :
    ∃ t u w, exec (.start 0 1) (withSlot (started .indala)) = .next t ∧ respStatus t.resp = 0
      ∧ exec (.start 0 0) t = .next u ∧ exec (.start 0 1) u = .next w ∧ (∀ v d, Instr.start 0 0 ≠ feedRow v 0 d)
      ∧ Instr.start 0 0 ≠ .free 0 :=
  ⟨_, _, _, rfl, rfl, rfl, rfl, by intro v d; cases v <;> simp [feedRow], by decide⟩
theorem test_witness_AllocLeavesTheStateOfStartZero :
    ∃ t u, exec .allocPac sixteen = .next t ∧ respStatus t.resp = 0 ∧ respHandle t.resp = 15
      ∧ sixteen.slots.length ≤ 16 ∧ exec (.start 15 0) t = .next u := ⟨_, _, rfl, rfl, rfl, by decide, rfl⟩
theorem test_witness_GetDataCopiesTheIdentifier :
    names (withSlot { started .indala .l224 with dataValid := true }) 0 { started .indala .l224 with dataValid := true }
      ∧ names (withSlot (started .fdxb)) 0 (started .fdxb) ∧ (started .fdxb).dataValid = false := by decide
theorem test_witness_PacIsNeverDecoded :
    names (withSlot (started .pac)) 0 (started .pac) ∧ (started .pac).prot = .pac ∧ (withSlot (started .pac)).Inv := by
  decide
theorem test_witness_BiphaseTransitionTable :
    [0, 7, 56, 65535].map bpClassify = List.replicate 4 .invalid ∧ [8, 23].map bpClassify = [.half, .half]
      ∧ [24, 39].map bpClassify = [.full, .full] ∧ [40, 55].map bpClassify = [.oneHalf, .oneHalf] := by decide
/-- A slot in sync and one out of sync; the operands' ranges meet at 7, 8, 23, 24, 39, 40, 55 and 56. -/
theorem test_witness_FeedFdxbFollowsItsRule :
    names (withSlot (started .fdxb)) 0 (started .fdxb) ∧ (started .fdxb).prot = .fdxb ∧ (started .fdxb).sync = false
      ∧ names (withSlot { started .fdxb with sync := true }) 0 { started .fdxb with sync := true } := by decide
theorem test_witness_FeedJablotronFollowsItsRule :
    names (withSlot (started .jablotron)) 0 (started .jablotron) ∧ (started .jablotron).prot = .jablotron
      ∧ (started .jablotron).sync = false
      ∧ names (withSlot { started .jablotron with sync := true }) 0 { started .jablotron with sync := true } := by decide
/-- Both FEED statements at the operands where their clauses meet: an interval of 7 resets, 8 gains sync
silently, 23 emits, 24 and 39 emit 0, 40 and 55 emit 1 and drop sync, 56 resets. -/
theorem test_feed_interval_boundaries :
    [(false, 7), (false, 8), (false, 23), (true, 23), (true, 24), (false, 39), (true, 40), (false, 40), (true, 55),
        (true, 56)].map (fun x => (bpStep x.1 x.2).reset || ((bpStep x.1 x.2).bit != none))
      = [true, false, false, true, true, true, true, true, true, true]
      ∧ slot0Has (exec (.feedFdxb 0 23) (withSlot { started .fdxb with sync := true }))
        (fun S => S.fdxb == ⟨1, 1⟩ && S.sync)
      ∧ slot0Has (exec (.feedJablotron 0 55) (withSlot { started .jablotron with sync := true }))
        (fun S => S.jablotron == ⟨1, 1⟩ && !S.sync) := by decide
theorem test_witness_FeedAdvancesOnlyItsOwnSlot :
    ∀ pf ∈ [(Variant.fdxb, Prot.fdxb, Layout.l64), (.indala64, .indala, .l64), (.indala224, .indala, .l224),
        (.ioprox, .ioprox, .l64), (.jablotron, .jablotron, .l64), (.paradox, .paradox, .l64)],
      pf.1 ≠ .pac ∧ names (withSlot (started pf.2.1 pf.2.2)) 0 (started pf.2.1 pf.2.2)
        ∧ (started pf.2.1 pf.2.2).variant = pf.1 := by decide
theorem test_witness_FeedOfASampleRunsDemodulatorThenCodec :
    ∀ pf ∈ [(Variant.indala64, Prot.indala, Layout.l64), (.indala224, .indala, .l224), (.ioprox, .ioprox, .l64),
        (.paradox, .paradox, .l64)],
      names (withSlot (started pf.2.1 pf.2.2)) 0 (started pf.2.1 pf.2.2)
        ∧ (started pf.2.1 pf.2.2).variant = pf.1 := by decide
/-- A full window of two samples, and a window one short. -/
theorem test_witness_FskEmitsOneBitPerWindow :
    1 ≤ 2 ∧ 2 ≤ 65536 ∧ (FskDemod.mk [7, 7] 0).win.length = 2 ∧ (FskDemod.mk [7, 7] 0).cnt = 0
      ∧ [1#16, 0xFFFF#16].length = 2 ∧ [1#16].length < 2 := by decide
theorem test_witness_PskWindowSlidesByHalf :
    let d : PskDemod := ⟨[1, 2, 3, 4], 2, true, 5⟩
    let e : PskDemod := ⟨[1, 2, 3, 4], 3, true, 5⟩
    4 % 2 = 0 ∧ 2 ≤ 4 ∧ 4 ≤ 65534 ∧ d.win.length = 4 ∧ d.cnt.toNat < 4 ∧ d.cnt.toNat + 1 < 4
      ∧ e.win.length = 4 ∧ e.cnt.toNat < 4 ∧ e.cnt.toNat + 1 = 4 := by decide
/-- The low tone's coefficient is larger than the high tone's. -/
theorem cos_fskWHi_lt : Real.cos fskWHi < Real.cos fskWLo := by
  have := Real.pi_pos
  apply Real.cos_lt_cos_of_nonneg_of_le_pi_div_two <;> simp only [fskWHi, fskWLo] <;> linarith
/-- One window for each clause: two equal samples have more power at the low tone (2 + c), two opposite
samples less (2 − c), and an impulse ties. -/
theorem test_witness_FskDecideComparesTheRealPowers :
    goertzelReal [1, 1] fskWHi + (0 : ℕ) < goertzelReal [1, 1] fskWLo
      ∧ goertzelReal [1, -1] fskWLo + (0 : ℕ) < goertzelReal [1, -1] fskWHi
      ∧ goertzelReal [1] fskWLo = goertzelReal [1] fskWHi := by
  have := cos_fskWHi_lt
  simp only [goertzelReal, List.foldl]
  refine ⟨?_, ?_, ?_⟩ <;> push_cast <;> nlinarith
theorem test_witness_FdxbFrameFixedFields : w4.length = 16 := by decide
theorem test_witness_FdxbDecodesItsOwnFrames : w4.length = 16 ∧ (byteAt w4 0).toNat ≤ 0x3F
    ∧ (byteAt w4 5).toNat ≤ 0x03 ∧ (byteAt w4 7).toNat ≤ 1 ∧ (byteAt w4 8).toNat ≤ 1
    ∧ (∀ k < 16, 11 ≤ k → byteAt w4 k = 0) ∧ (started .fdxb).fdxb = ⟨0, 0⟩ := by decide
theorem test_witness_JablotronDecodesItsOwnFrames :
    let s := writing (withSlot (started .jablotron)) []
    names s 0 (started .jablotron) ∧ (started .jablotron).prot = .jablotron ∧ (started .jablotron).sync = false
      ∧ (started .jablotron).jablotron = ⟨0, 0⟩ ∧ [1#8, 2, 3, 4, 5].length = 5
      ∧ State.host { s with host := feedWords 0 (bpStim (frameJablotron [1, 2, 3, 4, 5])) }
        = feedWords 0 (bpStim (frameJablotron [1, 2, 3, 4, 5])) := by decide
theorem test_witness_IoproxDecodesItsOwnFrames : (started .ioprox).ioprox = ⟨.search, 0, 0, 0⟩ := by decide
/-- W5 after two other bits, from a codec that holds bits already; and the cleared codec. -/
theorem test_witness_Indala64DecodesItsOwnFrames :
    let S : Slot := { started .indala with indala := ⟨5, 3⟩ }
    let F := frameIndala64 IndalaMap.default [0xAB, 0x12, 0x34]
    [0xAB#8, 0x12, 0x34].length = 3
      ∧ (feedBits (indala64Bit IndalaMap.default) ([true, false] ++ F.take 63) S).2 = []
      ∧ (started .indala).indala = ⟨0, 0⟩ := by decide
/-- R245: a full window that fails slides on; the accumulator is not cleared. -/
theorem test_indala64_bit_slides :
    indala64Bit IndalaMap.default true { started .indala with indala := ⟨0xD00000004BC44139, 64⟩ }
      = ⟨{ started .indala with indala := ⟨0xA000000097888273, 64⟩ }, none⟩ := by decide
/-- The wrap at 224 bits, and a full window that fails slides on. -/
theorem test_indala224_bit_slides :
    indala224Bit true { started .indala .l224 with indala := ⟨BitVec.twoPow 224 223 + 1, 224⟩ }
      = ⟨{ started .indala .l224 with indala := ⟨3, 224⟩ }, none⟩ := by decide
/-- V-IND-6: a marked identifier, and one that is not, fed to a codec that has seen one bit. -/
theorem test_witness_Indala224DecodesMarkedFrames :
    let id : List Byte := [0xA0, 0, 0, 0, 0x80] ++ List.replicate 23 0
    let S : Slot := { started .indala .l224 with indala := ⟨0, 1⟩ }
    id.length = 28 ∧ (started .indala .l224).indala = ⟨0, 0⟩ ∧ (byteAt id 0).getLsbD 7 ∧ (byteAt id 0).getLsbD 5
      ∧ (byteAt id 4).getLsbD 7 ∧ ¬ (byteAt (List.replicate 28 0) 4).getLsbD 7
      ∧ (feedBits indala224Bit ([] ++ (frameIndala224 id).take 223) S).2 = []
      ∧ (feedBits indala224Bit ([] ++ (frameIndala224 (List.replicate 28 0)).take 223) S).2 = [] := by decide
/-- Earlier bits with a run of seven zeros, the shortest run, a window that passes, and one that fails; and
SEARCH states on both sides of 8 zeros. -/
theorem test_witness_IoproxPreambleStartsTheWindow :
    let P := [true] ++ List.replicate 7 false ++ [true]
    (started .ioprox).ioprox = ⟨.search, 0, 0, 0⟩ ∧ ¬ (List.replicate 8 false ++ [true]) <:+: P
      ∧ P.getLast? ≠ some false ∧ 8 ≤ 8 ∧ ((frameIoprox w2).drop 10).length = 54
      ∧ (List.replicate 54 true).length = 54 ∧ (7#8).toNat < 8 ∧ 8 ≤ (8#8).toNat
      ∧ (IoproxCodec.mk .search 7 0 0).mode = .search := by decide
/-- R274: a 1 after seven zeros starts nothing, a 1 after eight starts the window, a 0 saturates at 255. -/
theorem test_ioprox_search :
    [7, 8].map (fun z => (ioproxBit true { started .ioprox with ioprox := ⟨.search, z, 0, 0⟩ }).slot.ioprox)
        = [⟨.search, 0, 0, 0⟩, ⟨.collect, 8, 1, 1⟩]
      ∧ (ioproxBit false { started .ioprox with ioprox := ⟨.search, 255, 0, 0⟩ }).slot.ioprox
        = ⟨.search, 255, 0, 0⟩ := by decide
/-- Earlier bits that end in a part of the preamble. -/
theorem test_witness_ParadoxCollectsUnchecked :
    (started .paradox).paradox = ⟨.search, 0, 0, 0, 0⟩
      ∧ ¬ bitsOf 8 0x0F <:+: [true, false, false, false, false, true, true, true, false] ∧ (List.replicate 88 false).length = 88
      ∧ (ParadoxCodec.mk .search 7 7 0 0).mode = .search := by decide
/-- The shortest capture of R274, eight zeros and W2's 55-bit window: 63 bits from a re-armed codec (log 22). -/
theorem test_ioprox_shortest_capture :
    (List.replicate 8 false ++ (frameIoprox w2).drop 9).length = 63
      ∧ (feedBits ioproxBit (List.replicate 8 false ++ (frameIoprox w2).drop 9) (started .ioprox)).2
        = [[1, 2, 3, 4, 5]] := by decide
/-- R315: the match needs eight bits, and the window slides by one bit. -/
theorem test_paradox_search :
    [6, 7].map (fun n => (paradoxBit true { started .paradox with paradox := ⟨.search, 7, n, 0, 0⟩ }).slot.paradox.mode)
        = [.search, .collect]
      ∧ (paradoxBit true { started .paradox with paradox := ⟨.search, 0x87, 8, 0, 0⟩ }).slot.paradox
        = ⟨.collect, 0x0F, 8, 0x0F, 8⟩ := by decide
theorem test_witness_Indala64RejectsSingleBitChanges :
    [0xAB#8, 0x12, 0x34].length = 3 ∧ (∀ t ∈ [0, 2, 32, 63], t = 0 ∨ t = 2 ∨ 32 ≤ t)
      ∧ (∀ t ∈ [1, 3, 31], t = 1 ∨ (3 ≤ t ∧ t ≤ 31)) := by decide
theorem test_witness_JablotronRejectsSingleBitChanges : acceptJablotron 0xFFFF01020304053B = true := by decide
/-- W4's window; its flips at 117, 48 and 63 are rejected, at 116, 64 and 47 not. -/
theorem test_witness_FdxbChecksHeaderAndCrcFieldOnly :
    acceptFdxb 0x003FFFFFFFFFFFFFE139804020000000 = true
      ∧ [117, 48, 63, 116, 64, 47].map (fun t => acceptFdxb (0x003FFFFFFFFFFFFFE139804020000000 ^^^ BitVec.twoPow 128 t))
        = [false, false, false, true, true, true] := by decide
theorem test_witness_ParadoxFrameIsTheRotatedBuffer : w3.length = 6 := by decide
theorem test_witness_PacFrameCharacters : (digits.take 8).length = 8 := by decide
theorem test_witness_ModulateAndWriteRunOnEachVariant :
    ∀ pf ∈ [(Variant.fdxb, Prot.fdxb, Layout.l64), (.indala64, .indala, .l64), (.indala224, .indala, .l224),
        (.ioprox, .ioprox, .l64), (.jablotron, .jablotron, .l64), (.paradox, .paradox, .l64), (.pac, .pac, .l64)],
      names (withSlot (started pf.2.1 pf.2.2)) 0 (started pf.2.1 pf.2.2)
        ∧ (started pf.2.1 pf.2.2).variant = pf.1 := by decide
theorem test_witness_RenderingOfACell : 2047 ≤ 2047 ∧ 0 < [true].length ∧ 1 < [true, false].length := by decide
/-- The lengths where GEN's clauses meet. -/
theorem test_witness_GenRunsTheGenerator :
    (28#8).toNat ≤ 28 ∧ 28 < (29#8).toNat ∧ (1#8 = 1) ∧ (0#8 ≠ 1) ∧ (2#8 ≠ 1) := by decide

end Sys2Proof.Tests
end

section
/-! SUPPORT. The fields of a command word and of RESP read back (R91, R97), and one bit shifted into an
accumulator. -/

namespace Sys2Proof.Machine

/-! ### The fields of a packed word (R91) -/

section PackedWord
variable (op sel slot fmt : BitVec 4) (data : BitVec 16)

@[simp] theorem fieldOp_packWord : fieldOp (packWord op sel slot fmt data) = op := by
  simp only [fieldOp, packWord, BitVec.extractLsb'_append_eq_ite]; simp

@[simp] theorem fieldSel_packWord : fieldSel (packWord op sel slot fmt data) = sel := by
  simp only [fieldSel, packWord, BitVec.extractLsb'_append_eq_ite]; simp

@[simp] theorem fieldSlot_packWord : fieldSlot (packWord op sel slot fmt data) = slot := by
  simp only [fieldSlot, packWord, BitVec.extractLsb'_append_eq_ite]; simp

@[simp] theorem fieldFmt_packWord : fieldFmt (packWord op sel slot fmt data) = fmt := by
  simp only [fieldFmt, packWord, BitVec.extractLsb'_append_eq_ite]; simp

@[simp] theorem fieldData_packWord : fieldData (packWord op sel slot fmt data) = data := by
  simp only [fieldData, packWord, BitVec.extractLsb'_append_eq_ite]; simp

end PackedWord

/-! ### The fields of RESP (R97) -/

section Response
variable (status : Status) (done unverified : Bool) (handle : BitVec 4) (result : BitVec 16)

@[simp] theorem respStatus_respWord : respStatus (respWord status done unverified handle result) = status.code := by
  simp only [respStatus, respWord, BitVec.extractLsb'_append_eq_ite]; simp

@[simp] theorem respDone_respWord : respDone (respWord status done unverified handle result) = done := by
  simp only [respDone, respWord, BitVec.getLsbD_append]; simp

@[simp] theorem respUnverified_respWord :
    respUnverified (respWord status done unverified handle result) = unverified := by
  simp only [respUnverified, respWord, BitVec.getLsbD_append]; simp

theorem reserved6_respWord : (respWord status done unverified handle result).extractLsb' 6 2 = 0 := by
  simp only [respWord, BitVec.extractLsb'_append_eq_ite]; simp

theorem reserved12_respWord : (respWord status done unverified handle result).extractLsb' 12 4 = 0 := by
  simp only [respWord, BitVec.extractLsb'_append_eq_ite]; simp

end Response

/-- A RESP built from its fields is well formed when UNVERIFIED comes with DONE and DONE with STATUS OK. -/
theorem respOk_respWord {status : Status} {done unverified : Bool} (handle : BitVec 4) (result : BitVec 16)
    (hu : unverified = true → done = true) (hd : done = true → status = .ok) :
    respOk (respWord status done unverified handle result) := by
  have hcode : status.code.toNat ≤ 8 := by cases status <;> decide
  refine ⟨reserved6_respWord .., reserved12_respWord .., by simpa using hcode, by simpa using hu, fun h => ?_⟩
  rw [respStatus_respWord, hd (by simpa using h)]
  rfl

theorem respOk_errorResp (e : Status) : respOk (errorResp e) := respOk_respWord 0 0 (by simp) (by simp)
theorem respOk_resultResp (result : BitVec 16) : respOk (resultResp result) := respOk_respWord 0 _ (by simp) (by simp)
theorem respOk_handleResp (handle : BitVec 4) : respOk (handleResp handle) := respOk_respWord _ 0 (by simp) (by simp)
theorem respOk_feedResp (v : Variant) (done : Bool) : respOk (feedResp v done) :=
  respOk_respWord 0 0 (by simp +contextual) (by simp)

/-- A command that completes without a field answers RESULT 0 (R97). -/
theorem okResp_eq_resultResp : okResp = resultResp 0 := rfl

/-! ### One bit shifted into an accumulator (R36 to R40) -/

/-- The accumulator doubles, takes the bit at value bit 0, and loses what passes its width. -/
theorem toNat_shiftIn {w : Nat} (acc : BitVec w) (b : Bool) :
    (acc <<< 1 ||| (BitVec.ofBool b).zeroExtend w).toNat = (2 * acc.toNat + b.toNat) % 2 ^ w := by
  have hor : acc <<< 1 ||| (BitVec.ofBool b).zeroExtend w = acc <<< 1 + (BitVec.ofBool b).zeroExtend w := by
    refine (BitVec.add_eq_or_of_and_eq_zero _ _ ?_).symm
    ext i hi
    cases i <;> simp
  rw [hor]
  simp [BitVec.toNat_add, Nat.shiftLeft_eq, Nat.mul_comm]

/-- No bit stands above the count after a bit is shifted in and the count saturates at the width. -/
theorem shiftIn_lt {w k : Nat} {acc : BitVec w} (b : Bool) (h : acc.toNat < 2 ^ k) :
    (acc <<< 1 ||| (BitVec.ofBool b).zeroExtend w).toNat < 2 ^ min (k + 1) w := by
  rw [toNat_shiftIn]
  have hb := b.toNat_le
  rcases Nat.le_total (k + 1) w with hk | hk
  · rw [Nat.min_eq_left hk]
    exact (Nat.mod_le _ _).trans_lt (by rw [pow_succ]; omega)
  · rw [Nat.min_eq_right hk]
    exact Nat.mod_lt _ (by positivity)

/-- While the window is not full, the oldest bits stay what they were. -/
theorem shiftIn_div {w k j : Nat} {acc : BitVec w} (b : Bool) (h : acc.toNat < 2 ^ k) (hk : k < w) :
    (acc <<< 1 ||| (BitVec.ofBool b).zeroExtend w).toNat / 2 ^ (j + 1) = acc.toNat / 2 ^ j := by
  have hb := b.toNat_le
  have hpow : 2 ^ (k + 1) ≤ 2 ^ w := Nat.pow_le_pow_right (by decide) hk
  rw [toNat_shiftIn, Nat.mod_eq_of_lt (by rw [pow_succ] at hpow; omega), pow_succ', ← Nat.div_div_eq_div_mul]
  congr 1
  omega

end Sys2Proof.Machine
end

section
/-! SUPPORT. What a command can do, said once over all 35 rows of the opcode table: `effect_of_exec` says that
`exec` answers no next state but those `Effect` lists. -/

namespace Sys2Proof.Machine

/-! ### The rows by the operation they share -/

/-- The ALLOC row of a protocol (R93). -/
def allocOf : Prot → Instr
  | .fdxb => .allocFdxb
  | .indala => .allocIndala
  | .ioprox => .allocIoprox
  | .jablotron => .allocJablotron
  | .paradox => .allocParadox
  | .pac => .allocPac

/-- The FEED rule of a variant (R123). PAC has none (R333): its FEED raises before a rule runs. -/
def feedRule (v : Variant) (data : BitVec 16) : Config → Slot → Fed :=
  match v with
  | .fdxb => feedFdxb data
  | .indala64 => feedIndala64 data
  | .indala224 => feedIndala224 data
  | .ioprox => feedIoprox data
  | .jablotron => feedJablotron data
  | .paradox => feedParadox data
  | .pac => fun _ S => ⟨S, none⟩

theorem exec_allocOf (p : Prot) (s : State) : exec (allocOf p) s = allocate p s := by
  cases p <;> rfl

theorem exec_feedRow {v : Variant} (hv : v ≠ .pac) (n : BitVec 4) (data : BitVec 16) (s : State) :
    exec (feedRow v n data) s = feedOn v (feedRule v data) n s := by
  cases v with
  | pac => exact absurd rfl hv
  | _ => rfl

theorem exec_feedRow_pac (n : BitVec 4) (data : BitVec 16) (s : State) :
    exec (feedRow .pac n data) s = onRow .pac s n fun _ => .next (s.raise .unsupported) := rfl

theorem exec_modulateRow (v : Variant) (n : BitVec 4) (s : State) :
    exec (modulateRow v n) s = modulateOn v (frameOf v) (renderer v) n s := by
  cases v <;> rfl

theorem exec_writeRow (v : Variant) (n : BitVec 4) (s : State) :
    exec (writeRow v n) s = writeT5577On v (frameOf v) n s := by
  cases v <;> rfl

@[simp] theorem slot?_feedRow (v : Variant) (n : BitVec 4) (data : BitVec 16) :
    Instr.slot? (feedRow v n data) = some n := by
  cases v <;> rfl

theorem allocOf_mem (p : Prot) :
    allocOf p ∈ [.allocFdxb, .allocIndala, .allocIoprox, .allocJablotron, .allocParadox, .allocPac] := by
  cases p <;> decide

/-! ### The effects -/

/-- The next states a command can have: RESP alone changes (an error, or a result without another effect), or
one operation of 40_descriptor_ops.md writes what it names. It bounds what a command changes and does not fix
when it does so: `onRow_next`, `execStart_next` and their like say that. -/
inductive Effect (s : State) : Instr → State → Prop where
  | raised (i : Instr) (e : Status) : Effect s i (s.raise e)
  | answered (i : Instr) (result : BitVec 16) : Effect s i (s.setResp (resultResp result))
  | allocated (p : Prot) (n : Nat) (hn : s.leastFree? = some n) :
      Effect s (allocOf p) ((s.setSlot n (Slot.fresh s.cfg p .l64)).setResp (handleResp (BitVec.ofNat 4 n)))
  | freed (n : BitVec 4) : Effect s (.free n) ((s.setSlot n.toNat Slot.free).setResp okResp)
  | started (n fmt : BitVec 4) (S : Slot) (f : Layout) (hS : s.allocated? n = some S)
      (hf : layoutOfFmt S.prot fmt = some f) :
      Effect s (.start n fmt) ((s.setSlot n.toNat (Slot.fresh s.cfg S.prot f)).setResp okResp)
  | fed (v : Variant) (n : BitVec 4) (data : BitVec 16) (S : Slot) (hS : s.allocated? n = some S)
      (hv : S.variant = v) (hpac : v ≠ .pac) :
      Effect s (feedRow v n data) ((s.setSlot n.toNat (feedRule v data s.cfg S).stored).setResp
        (feedResp v (feedRule v data s.cfg S).id.isSome))
  | gotData (n : BitVec 4) (id : List Byte) (result : BitVec 16) :
      Effect s (.getData n) ((s.setIdOut id).setResp (resultResp result))
  | modulated (v : Variant) (n : BitVec 4) (seq : List Segment)
      (hseq : seq = renderer v (frameOf v s.cfg (firstBytes s.idIn (payload v))) (s.cfg.bitrate (variantProt v))) :
      Effect s (modulateRow v n)
        ((s.setWave (variantProt v) seq).setResp (resultResp (BitVec.ofNat 16 seq.length)))
  | written (v : Variant) (n : BitVec 4) (blk : List Word)
      (hblk : blk = t5577Blocks (s.cfg.t5577Cfg v) (frameOf v s.cfg (firstBytes s.idIn (payload v)))) :
      Effect s (writeRow v n) ((s.setBlocks blk).setResp (resultResp (BitVec.ofNat 16 blk.length)))

section Rows
variable {s t : State}

theorem effect_of_alloc (p : Prot) (h : exec (allocOf p) s = .next t) : Effect s (allocOf p) t := by
  rw [exec_allocOf] at h
  obtain ⟨-, rfl⟩ | ⟨n, hn, rfl⟩ := allocate_next h
  · exact .raised _ _
  · exact .allocated p n hn

theorem effect_of_free {n : BitVec 4} (h : exec (.free n) s = .next t) : Effect s (.free n) t := by
  obtain ⟨-, rfl⟩ | ⟨S, -, rfl⟩ := execFree_next h
  · exact .answered _ 0
  · exact .freed n

theorem effect_of_start {n fmt : BitVec 4} (h : exec (.start n fmt) s = .next t) :
    Effect s (.start n fmt) t := by
  obtain ⟨-, rfl⟩ | ⟨S, hS, ⟨-, rfl⟩ | ⟨f, hf, rfl⟩⟩ := execStart_next h
  · exact .raised _ _
  · exact .raised _ _
  · exact .started n fmt S f hS hf

theorem effect_of_feed (v : Variant) {n : BitVec 4} {data : BitVec 16}
    (h : exec (feedRow v n data) s = .next t) : Effect s (feedRow v n data) t := by
  by_cases hpac : v = .pac
  · subst hpac
    rw [exec_feedRow_pac] at h
    obtain ⟨-, rfl⟩ | ⟨S, -, -, h⟩ := onRow_next h
    · exact .raised _ _
    · cases h; exact .raised _ _
  · rw [exec_feedRow hpac] at h
    obtain ⟨-, rfl⟩ | ⟨S, hS, hv, rfl⟩ := feedOn_next h
    · exact .raised _ _
    · exact .fed v n data S hS hv hpac

theorem effect_of_getData {n : BitVec 4} (h : exec (.getData n) s = .next t) : Effect s (.getData n) t := by
  obtain ⟨-, rfl⟩ | ⟨S, -, ⟨-, rfl⟩ | ⟨-, rfl⟩⟩ := execGetData_next h
  · exact .raised _ _
  · exact .raised _ _
  · exact .gotData n _ _

theorem effect_of_modulate (v : Variant) {n : BitVec 4} (h : exec (modulateRow v n) s = .next t) :
    Effect s (modulateRow v n) t := by
  rw [exec_modulateRow] at h
  obtain ⟨-, rfl⟩ | ⟨S, seq, -, -, hseq, rfl⟩ := modulateOn_next h
  · exact .raised _ _
  · exact .modulated v n seq hseq

theorem effect_of_write (v : Variant) {n : BitVec 4} (h : exec (writeRow v n) s = .next t) :
    Effect s (writeRow v n) t := by
  rw [exec_writeRow] at h
  obtain ⟨-, rfl⟩ | ⟨S, blk, -, -, hblk, rfl⟩ := writeT5577On_next h
  · exact .raised _ _
  · exact .written v n blk hblk

theorem effect_of_gen {legal : Nat → Bool} {g : List Byte → BitVec 16} {len : BitVec 8} (i : Instr)
    (h : genOn legal g len s = .next t) : Effect s i t := by
  obtain ⟨-, rfl⟩ | ⟨-, rfl⟩ := genOn_next h
  · exact .raised _ _
  · exact .answered _ _

/-- A command has one of the effects. -/
theorem effect_of_exec {i : Instr} (h : exec i s = .next t) : Effect s i t := by
  cases i with
  | allocFdxb => exact effect_of_alloc .fdxb h
  | allocIndala => exact effect_of_alloc .indala h
  | allocIoprox => exact effect_of_alloc .ioprox h
  | allocJablotron => exact effect_of_alloc .jablotron h
  | allocParadox => exact effect_of_alloc .paradox h
  | allocPac => exact effect_of_alloc .pac h
  | free => exact effect_of_free h
  | start => exact effect_of_start h
  | feedFdxb => exact effect_of_feed .fdxb h
  | feedIndala64 => exact effect_of_feed .indala64 h
  | feedIndala224 => exact effect_of_feed .indala224 h
  | feedIoprox => exact effect_of_feed .ioprox h
  | feedJablotron => exact effect_of_feed .jablotron h
  | feedParadox => exact effect_of_feed .paradox h
  | feedPac => exact effect_of_feed .pac h
  | getData => exact effect_of_getData h
  | modulateFdxb => exact effect_of_modulate .fdxb h
  | modulateIndala64 => exact effect_of_modulate .indala64 h
  | modulateIndala224 => exact effect_of_modulate .indala224 h
  | modulateIoprox => exact effect_of_modulate .ioprox h
  | modulateJablotron => exact effect_of_modulate .jablotron h
  | modulateParadox => exact effect_of_modulate .paradox h
  | modulatePac => exact effect_of_modulate .pac h
  | writeT5577Fdxb => exact effect_of_write .fdxb h
  | writeT5577Indala64 => exact effect_of_write .indala64 h
  | writeT5577Indala224 => exact effect_of_write .indala224 h
  | writeT5577Ioprox => exact effect_of_write .ioprox h
  | writeT5577Jablotron => exact effect_of_write .jablotron h
  | writeT5577Paradox => exact effect_of_write .paradox h
  | writeT5577Pac => exact effect_of_write .pac h
  | genCrc16 => rw [exec, execGenCrc16] at h; exact effect_of_gen _ h
  | genCrc8Maxim => rw [exec, execGenCrc8Maxim] at h; exact effect_of_gen _ h
  | genXor8 => rw [exec, execGenXor8] at h; exact effect_of_gen _ h
  | genSumComp8 => rw [exec, execGenSumComp8] at h; exact effect_of_gen _ h
  | genOddPar7 => rw [exec, execGenOddPar7] at h; exact effect_of_gen _ h

end Rows

end Sys2Proof.Machine
end

section
/-! PROOFS. What no command writes, the one writer of each output buffer, and the isolation of the slots
(10_state.md, R31, R47 to R50, R53). -/

namespace Sys2Proof.Machine

/-- Settles O14: every effect is built of updates that keep these five fields. -/
theorem noCommandWritesIdInOrTheConfiguration : Obligations.NoCommandWritesIdInOrTheConfiguration := by
  unfold Obligations.NoCommandWritesIdInOrTheConfiguration
  intro i s t h
  cases effect_of_exec h with
  | raised | answered | allocated | freed | started | fed | gotData | modulated | written => simp

/-- Protocols have buffers of their own (R49). -/
theorem protCode_injective : Function.Injective protCode := by
  intro p q; cases p <;> cases q <;> decide

/-- WAVE[q] after a write to WAVE[p] (R125). -/
theorem setWave_getElem (s : State) (p q : Prot) (seq : List Segment) :
    (s.setWave p seq).waves[protCode q]
      = if p = q then ⟨seq, BitVec.ofNat 16 seq.length⟩ else s.waves[protCode q] := by
  simp [Vector.getElem_set, Fin.val_inj, protCode_injective.eq_iff]

/-- Settles O15: each effect writes the one buffer its command owns. -/
theorem outputBuffersHaveOneWriter : Obligations.OutputBuffersHaveOneWriter := by
  unfold Obligations.OutputBuffersHaveOneWriter
  intro i s t h
  cases effect_of_exec h with
  | raised | answered => simp
  | allocated p => exact ⟨by simp, by simp, by simp, fun _ => .inl (allocOf_mem p)⟩
  | freed n => exact ⟨by simp, by simp, by simp, fun _ => .inr (.inl ⟨n, rfl⟩)⟩
  | started n fmt => exact ⟨by simp, by simp, by simp, fun _ => .inr (.inr (.inl ⟨n, fmt, rfl⟩))⟩
  | fed v n data => exact ⟨by simp, by simp, by simp, fun _ => .inr (.inr (.inr ⟨v, n, data, rfl⟩))⟩
  | gotData n => exact ⟨fun _ => ⟨n, rfl⟩, by simp, by simp, by simp⟩
  | modulated v n seq =>
    refine ⟨by simp, fun p hp => ⟨v, n, ?_, rfl⟩, by simp, by simp⟩
    by_contra hne
    exact hp (by rw [State.setResp_waves, setWave_getElem, if_neg hne])
  | written v n => exact ⟨by simp, by simp, fun _ => ⟨v, n, rfl⟩, by simp⟩

/-- A slot that a write to slot n changed is slot n. -/
theorem eq_of_set_getElem?_ne {l : List Slot} {n m : Nat} {S : Slot} (h : (l.set n S)[m]? ≠ l[m]?) : n = m := by
  by_contra hne
  exact h (List.getElem?_set_ne hne)

/-- Settles O16: the effects that write a slot write the one their command names; ALLOC's is free. -/
theorem slotsAreIsolated : Obligations.SlotsAreIsolated := by
  unfold Obligations.SlotsAreIsolated
  intro i s t m h hm
  cases effect_of_exec h with
  | raised | answered | gotData | modulated | written => exact absurd rfl hm
  | allocated p n hn =>
    obtain rfl := eq_of_set_getElem?_ne hm
    obtain ⟨hlt, hfree, -⟩ := leastFree?_eq_some.mp hn
    exact .inr ⟨allocOf_mem p, s.slots[n], List.getElem?_eq_getElem hlt, hfree⟩
  | freed n => exact .inl ⟨n, rfl, eq_of_set_getElem?_ne hm⟩
  | started n => exact .inl ⟨n, rfl, eq_of_set_getElem?_ne hm⟩
  | fed v n => exact .inl ⟨n, slot?_feedRow .., eq_of_set_getElem?_ne hm⟩

end Sys2Proof.Machine
end

section
/-! PROOFS. What a sequence of FEEDs answers is a function of its slot and the values fed (R52). -/

namespace Sys2Proof.Machine

/-- A FEED word decodes to the FEED row of the variant its slot selects (R91, R102). -/
theorem decode_feedWord (v : Variant) (n : BitVec 4) (data : BitVec 16) :
    decode v (packWord 3 0 n 0 data) = .ok (feedRow v n data) := by
  simp only [decode, fieldOp_packWord, fieldSel_packWord, fieldSlot_packWord, fieldFmt_packWord,
    fieldData_packWord]
  rfl

/-- What FEED answers and leaves of its slot, from the configuration, the slot and the value fed alone (R123). -/
def feedReply (c : Config) (data : BitVec 16) : Option Slot → Word × Option Slot
  | none => (errorResp .notAllocated, none)
  | some S =>
    if S.alloc = false then (errorResp .notAllocated, some S)
    else if S.variant = .pac then (errorResp .unsupported, some S)
    else
      let r := feedRule S.variant data c S
      (feedResp S.variant r.id.isSome, some r.stored)

theorem feedReply_of_not_allocated {c : Config} {data : BitVec 16} {o : Option Slot}
    (h : ∀ S, o = some S → S.alloc = false) : feedReply c data o = (errorResp .notAllocated, o) := by
  cases o with
  | none => rfl
  | some S => simp [feedReply, h S rfl]

theorem feedReply_of_pac {c : Config} {data : BitVec 16} {S : Slot} (ha : S.alloc = true)
    (hv : S.variant = .pac) : feedReply c data (some S) = (errorResp .unsupported, some S) := by
  simp [feedReply, ha, hv]

theorem feedReply_of_rule {c : Config} {data : BitVec 16} {S : Slot} (ha : S.alloc = true)
    (hv : S.variant ≠ .pac) : feedReply c data (some S)
      = (feedResp S.variant (feedRule S.variant data c S).id.isSome, some (feedRule S.variant data c S).stored) := by
  simp [feedReply, ha, hv]

/-- RESP and slot n, all that a FEED on slot n is observed by. -/
def State.feedView (s : State) (n : BitVec 4) : Word × Option Slot := (s.resp, s.slots[n.toNat]?)

/-- The FEED row that slot n selects answers `feedReply` of that slot. -/
theorem exec_feedRow_reply (s : State) (n : BitVec 4) (data : BitVec 16) :
    ∃ t, exec (feedRow (s.variantAt n) n data) s = .next t
      ∧ t.feedView n = feedReply s.cfg data s.slots[n.toNat]? := by
  cases hS : s.allocated? n with
  | none =>
    rw [feedReply_of_not_allocated (allocated?_eq_none.mp hS)]
    refine ⟨s.raise .notAllocated, ?_, rfl⟩
    by_cases hpac : s.variantAt n = .pac
    · rw [hpac, exec_feedRow_pac, onRow, onSlot_of_not_allocated hS]
    · rw [exec_feedRow hpac, feedOn, onRow, onSlot_of_not_allocated hS]
  | some S =>
    obtain ⟨hslot, ha⟩ := allocated?_eq_some.mp hS
    rw [variantAt_of_slot hslot, hslot]
    by_cases hpac : S.variant = .pac
    · rw [hpac, exec_feedRow_pac, onRow_of_row hS hpac, feedReply_of_pac ha hpac]
      exact ⟨_, rfl, by simp [State.feedView, hslot]⟩
    · rw [exec_feedRow hpac, feedOn, onRow_of_row hS rfl, feedReply_of_rule ha hpac]
      obtain ⟨hlt, -⟩ := List.getElem?_eq_some_iff.mp hslot
      exact ⟨_, rfl, by simp [State.feedView, hlt]⟩

/-- A step whose command is a FEED word answers `feedReply` of its slot, and the HOST moves on. -/
theorem step_feedWord {s : State} {n : BitVec 4} {data : BitVec 16} {rest : List HostAction}
    (h : s.host = .writeCmd (packWord 3 0 n 0 data) :: rest) :
    ∃ t, step s = .next t ∧ t.feedView n = feedReply s.cfg data s.slots[n.toNat]? ∧ t.cfg = s.cfg
      ∧ t.host = rest := by
  obtain ⟨t, hexec, hview⟩ :=
    exec_feedRow_reply ((s.setCmd (packWord 3 0 n 0 data)).setHost rest) n data
  obtain ⟨-, hcfg, -, -, hhost⟩ := noCommandWritesIdInOrTheConfiguration _ _ _ hexec
  refine ⟨t, ?_, hview, hcfg, hhost⟩
  rw [step_of_writeCmd h, runWord, fieldSlot_packWord, decode_feedWord]
  exact hexec

/-- A run whose first step answers goes on from there. -/
theorem run_succ_of_next {k : Nat} {s t : State} (h : step s = .next t) :
    Host.Core.run Sys2Proof.core (k + 1) s = Host.Core.run Sys2Proof.core k t := by
  have hcore : Sys2Proof.core.step s = .next t := h
  simp only [Host.Core.run, hcore]

/-- A sequence of FEEDs folds `feedReply` over the values fed. -/
theorem run_feedWords (n : BitVec 4) (xs : List (BitVec 16)) (s : State) (h : s.host = feedWords n xs) :
    ∃ t, Host.Core.run Sys2Proof.core xs.length s = .next t
      ∧ t.feedView n = xs.foldl (fun q x => feedReply s.cfg x q.2) (s.feedView n) := by
  induction xs generalizing s with
  | nil => exact ⟨s, rfl, rfl⟩
  | cons x xs ih =>
    obtain ⟨u, hstep, hview, hcfg, hhost⟩ := step_feedWord h
    obtain ⟨t, hrun, ht⟩ := ih u hhost
    exact ⟨t, (run_succ_of_next hstep).trans hrun, by rw [ht, hview, hcfg]; rfl⟩

/-- Settles O17: both runs fold the same function, and its first application forgets the old RESP. -/
theorem feedResultsDependOnTheSlotAlone : Obligations.FeedResultsDependOnTheSlotAlone := by
  unfold Obligations.FeedResultsDependOnTheSlotAlone
  intro n xs s t hne hcfg hslot hs ht
  obtain ⟨s', hrunS, hviewS⟩ := run_feedWords n xs s hs
  obtain ⟨t', hrunT, hviewT⟩ := run_feedWords n xs t ht
  have hview : s'.feedView n = t'.feedView n := by
    cases xs with
    | nil => exact absurd rfl hne
    | cons x xs =>
      rw [hviewS, hviewT, hcfg]
      simp only [List.foldl_cons, State.feedView, hslot]
  exact ⟨s', t', hrunS, hrunT, congrArg Prod.fst hview, congrArg Prod.snd hview⟩

end Sys2Proof.Machine
end

section
/-! PROOFS. The length of every raw frame (R33), and of what is made of it: the waveform (R356) and the T5577
blocks (R357). -/

namespace Sys2Proof.Machine

/-! ### Bit sequences -/

@[simp] theorem length_bitsOfBytes (bs : List Byte) : (bitsOfBytes bs).length = 8 * bs.length := by
  simp [bitsOfBytes, List.length_flatMap, Nat.mul_comm]

theorem length_slice {F : List Bool} {lo n : Nat} (h : lo + n ≤ F.length) : (slice F lo n).length = n := by
  simp only [slice, List.length_take, List.length_drop]
  omega

@[simp] theorem length_rotate4 (bits : List Bool) : (rotate4 bits).length = bits.length := by
  simp only [rotate4, List.length_append, List.length_drop, List.length_take]
  omega

@[simp] theorem length_placeBits (F : List Bool) (pos : List Nat) (bits : List Bool) :
    (placeBits F pos bits).length = F.length := by
  unfold placeBits
  induction pos.zip bits generalizing F with
  | nil => rfl
  | cons pb l ih => simp [ih]

/-- A stuff bit follows each data bit whose index is 7 mod 8 (R221). -/
theorem length_stuffFrom (i : Nat) (D : List Bool) :
    (stuffFrom i D).length + i / 8 = D.length + (i + D.length) / 8 := by
  induction D generalizing i with
  | nil => simp [stuffFrom]
  | cons b D ih =>
    have h := ih (i + 1)
    rw [stuffFrom]
    split <;> simp only [List.length_cons] <;> omega

/-! ### The frames -/

theorem length_frameFdxb (id : List Byte) : (frameFdxb id).length = 128 := by
  have hdata : (fdxbData id).length = 66 := by simp [fdxbData]
  have hstuff : (stuff (fdxbData id)).length = 74 := by
    have h := length_stuffFrom 0 (fdxbData id)
    rw [hdata] at h
    exact h
  simp [frameFdxb, length_slice, hstuff]

theorem length_frameIndala64 (m : IndalaMap) (id : List Byte) : (frameIndala64 m id).length = 64 := by
  simp [frameIndala64, indala64Body]

theorem length_frameIndala224 (id : List Byte) : (frameIndala224 id).length = 224 := by
  simp [frameIndala224]

theorem length_frameIoprox (id : List Byte) : (frameIoprox id).length = 64 := by
  simp [frameIoprox, stuffedByte]

theorem length_frameJablotron (id : List Byte) : (frameJablotron id).length = 64 := by
  simp [frameJablotron]

theorem length_frameParadox (c : Config) (id : List Byte) : (frameParadox c id).length = 96 := by
  simp [frameParadox, paradoxBuffer, paradoxBody]

theorem length_pacChar (lsbFirst : Bool) (ch : Byte) : (pacChar lsbFirst ch).length = 10 := by
  cases lsbFirst <;> simp [pacChar, pacData7]

theorem length_framePac (c : Config) (id : List Byte) : (framePac c id).length = 128 := by
  have hchars : (pacChars id).length = 12 := by simp [pacChars]
  simp [framePac, List.length_flatMap, length_pacChar, hchars]

/-- Settles O35: each layout function by itself. -/
theorem framesHaveTheirLength : Obligations.FramesHaveTheirLength := by
  unfold Obligations.FramesHaveTheirLength
  intro v c id
  cases v with
  | fdxb => exact length_frameFdxb id
  | indala64 => exact length_frameIndala64 c.indala id
  | indala224 => exact length_frameIndala224 id
  | ioprox => exact length_frameIoprox id
  | jablotron => exact length_frameJablotron id
  | paradox => exact length_frameParadox c id
  | pac => exact length_framePac c id

/-! ### The waveform and the blocks of a frame -/

theorem length_renderBiphaseFrom (B : Nat) (lvl : Bool) (F : List Bool) :
    (renderBiphaseFrom B lvl F).length = 2 * F.length := by
  induction F generalizing lvl with
  | nil => rfl
  | cons b F ih => simp only [renderBiphaseFrom, List.length_cons, ih]; omega

theorem length_renderPskFrom (B : Nat) (ph : Bool) (F : List Bool) :
    (renderPskFrom B ph F).length = 2 * F.length := by
  induction F generalizing ph with
  | nil => rfl
  | cons b F ih => simp only [renderPskFrom, List.length_cons, ih]; omega

theorem length_fskCell_le (B : Nat) (b : Bool) : (fskCell B b).length ≤ 2 * (B / 8) := by
  cases b with
  | false => simp [fskCell, Nat.mul_comm]
  | true => simp [fskCell]; omega

/-- A high-tone bit has the most segments (R353). -/
theorem length_renderFsk_le (F : List Bool) (B : Nat) : (renderFsk F B).length ≤ 2 * F.length * (B / 8) := by
  induction F with
  | nil => simp [renderFsk]
  | cons b F ih =>
    have hcell := length_fskCell_le B b
    rw [renderFsk] at ih
    rw [renderFsk, List.flatMap_cons, List.length_append, List.length_cons, Nat.mul_add, Nat.add_mul]
    omega

/-- The waveform of a frame fits its buffer (R356). -/
theorem length_renderer_le (v : Variant) (c : Config) {F : List Bool} (hF : F.length = frameLen v) :
    (renderer v F (c.bitrate (variantProt v))).length ≤ waveCap c (variantProt v) := by
  cases v <;> simp only [frameLen] at hF <;> simp only [renderer, variantProt, waveCap]
  case fdxb | jablotron => rw [renderBiphase, length_renderBiphaseFrom]; omega
  case indala64 | indala224 => rw [renderPsk, length_renderPskFrom]; omega
  case ioprox | paradox => simpa [hF] using length_renderFsk_le F _
  case pac => simp [renderNrz, hF]

theorem length_t5577Blocks (w : Word) (F : List Bool) : (t5577Blocks w F).length = F.length / 32 + 1 := by
  simp [t5577Blocks]

/-- A frame has at most eight blocks, its configuration word included (R50). -/
theorem length_t5577Blocks_le (v : Variant) (w : Word) {F : List Bool} (hF : F.length = frameLen v) :
    (t5577Blocks w F).length ≤ 8 := by
  rw [length_t5577Blocks, hF]
  cases v <;> decide

end Sys2Proof.Machine
end

section
/-! SUPPORT. The invariant of a slot (R34 to R45) under the FEED rules: a running slot, the demodulators'
windows, and each codec's bit rule. -/

namespace Sys2Proof.Machine

/-! ### Configurations (R9, R359) -/

theorem fskN_le_of_wf {c : Config} (hc : c.wf = true) (p : Prot) : c.fskN p ≤ 65536 := by
  simp only [Config.wf, Bool.and_eq_true, decide_eq_true_eq] at hc
  cases p <;> simp only [Config.fskN] <;> omega

/-- PSK_N is even and at least 2, and its counter holds it. -/
theorem pskN_of_wf {c : Config} (hc : c.wf = true) : 2 ≤ c.pskN ∧ c.pskN ≤ 65535 ∧ c.pskN % 2 = 0 := by
  simp only [Config.wf, Bool.and_eq_true, decide_eq_true_eq] at hc
  omega

theorem bitrate_le_of_wf {c : Config} (hc : c.wf = true) (p : Prot) : c.bitrate p ≤ 2047 := by
  simp only [Config.wf, bitrateOk, Bool.and_eq_true, decide_eq_true_eq] at hc
  cases p <;> simp only [Config.bitrate] <;> omega

/-! ### Variants (R15) -/

theorem variantProt_variant (S : Slot) : variantProt S.variant = S.prot := by
  unfold Slot.variant
  cases S.prot <;> cases S.format <;> rfl

theorem variantProt_eq_pac {v : Variant} : variantProt v = .pac ↔ v = .pac := by
  cases v <;> decide

/-- The bound the invariant sets on the INDALA count is the frame length of the slot's variant (R37). -/
theorem indalaLimit_eq_frameLen {S : Slot} (hp : S.prot = .indala) :
    (if S.format = .l224 then 224 else 64) = frameLen S.variant := by
  rw [Slot.variant, hp]
  cases S.format <;> rfl

/-! ### Running slots -/

theorem Slot.inv_iff {c : Config} {S : Slot} :
    S.Inv c = true ↔ S.controlOk ∧ S.accOk ∧ S.ioproxOk ∧ S.paradoxOk ∧ S.demodOk c := by
  simp only [Slot.Inv, Bool.and_eq_true, decide_eq_true_eq, and_assoc]

/-- An allocated slot of variant v with the invariant. -/
structure Slot.Running (c : Config) (v : Variant) (S : Slot) : Prop where
  alloc : S.alloc = true
  variant : S.variant = v
  control : S.controlOk
  acc : S.accOk
  ioprox : S.ioproxOk
  paradox : S.paradoxOk
  demod : S.demodOk c

namespace Slot.Running
variable {c : Config} {v : Variant} {S : Slot}

theorem of_inv (ha : S.alloc = true) (hinv : S.Inv c = true) : S.Running c S.variant := by
  obtain ⟨hcontrol, hacc, hioprox, hparadox, hdemod⟩ := Slot.inv_iff.mp hinv
  exact ⟨ha, rfl, hcontrol, hacc, hioprox, hparadox, hdemod⟩

theorem inv (h : S.Running c v) : S.Inv c = true :=
  Slot.inv_iff.mpr ⟨h.control, h.acc, h.ioprox, h.paradox, h.demod⟩

theorem prot_eq (h : S.Running c v) : S.prot = variantProt v := by rw [← variantProt_variant, h.variant]

/-- A slot whose control fields are kept runs on, when what it changes is as its rule keeps it. -/
theorem of_update {T : Slot} (h : S.Running c v)
    (hkeep : (T.alloc, T.prot, T.format, T.dataValid, T.idBuf) = (S.alloc, S.prot, S.format, S.dataValid, S.idBuf))
    (hacc : T.accOk) (hioprox : T.ioproxOk) (hparadox : T.paradoxOk) (hdemod : T.demodOk c) :
    T.Running c v := by
  simp only [Prod.mk.injEq] at hkeep
  obtain ⟨halloc, hprot, hformat, hvalid, hbuf⟩ := hkeep
  have hvariant : T.variant = S.variant := by rw [Slot.variant, hprot, hformat]; rfl
  refine ⟨halloc.trans h.alloc, hvariant.trans h.variant, ⟨?_, ?_⟩, hacc, hioprox, hparadox, hdemod⟩
  · simp [halloc, h.alloc]
  · rw [hprot, hformat, hvalid, hbuf, hvariant]
    exact h.control.2

theorem setFdxb {x : FdxbCodec} (h : S.Running c .fdxb) (hcnt : x.cnt.toNat ≤ 128)
    (hlt : x.acc.toNat < 2 ^ x.cnt.toNat) : ({ S with fdxb := x } : Slot).Running c .fdxb := by
  obtain ⟨-, -, -, hothers⟩ := h.acc
  exact h.of_update rfl ⟨fun hne => absurd h.prot_eq hne, hcnt, hlt, hothers⟩ h.ioprox h.paradox h.demod

theorem setIndala {x : IndalaCodec} (h : S.Running c v) (hv : variantProt v = .indala)
    (hcnt : x.cnt.toNat ≤ frameLen v) (hlt : x.acc.toNat < 2 ^ x.cnt.toNat) :
    ({ S with indala := x } : Slot).Running c v := by
  obtain ⟨hfdxb, hfcnt, hflt, -, -, -, hjablotron⟩ := h.acc
  have hprot : S.prot = .indala := h.prot_eq.trans hv
  refine h.of_update rfl ⟨hfdxb, hfcnt, hflt, fun hne => absurd hprot hne, ?_, hlt, hjablotron⟩
    h.ioprox h.paradox h.demod
  rw [indalaLimit_eq_frameLen (S := { S with indala := x }) hprot]
  exact hcnt.trans_eq (congrArg frameLen h.variant.symm)

theorem setJablotron {x : JablotronCodec} (h : S.Running c .jablotron) (hcnt : x.cnt.toNat ≤ 64)
    (hlt : x.acc.toNat < 2 ^ x.cnt.toNat) : ({ S with jablotron := x } : Slot).Running c .jablotron := by
  obtain ⟨hfdxb, hfcnt, hflt, hindala, hicnt, hilt, -⟩ := h.acc
  exact h.of_update rfl
    ⟨hfdxb, hfcnt, hflt, hindala, hicnt, hilt, fun hne => absurd h.prot_eq hne, hcnt, hlt⟩
    h.ioprox h.paradox h.demod

theorem setIoprox {x : IoproxCodec} (h : S.Running c .ioprox)
    (hsearch : x.mode = .search → x.win = 0 ∧ x.wcnt = 0)
    (hcollect : x.mode = .collect → 8 ≤ x.zrun.toNat ∧ 1 ≤ x.wcnt.toNat ∧ x.wcnt.toNat < 55
      ∧ x.win.toNat / 2 ^ (x.wcnt.toNat - 1) = 1) : ({ S with ioprox := x } : Slot).Running c .ioprox :=
  h.of_update rfl h.acc ⟨fun hne => absurd h.prot_eq hne, hsearch, hcollect⟩ h.paradox h.demod

theorem setParadox {x : ParadoxCodec} (h : S.Running c .paradox) (hscnt : x.scnt.toNat ≤ 8)
    (hsreg : x.sreg.toNat < 2 ^ x.scnt.toNat) (hsearch : x.mode = .search → x.buf = 0 ∧ x.bcnt = 0)
    (hcollect : x.mode = .collect → 8 ≤ x.bcnt.toNat ∧ x.bcnt.toNat < 96
      ∧ x.buf.toNat / 2 ^ (x.bcnt.toNat - 8) = 0x0F) : ({ S with paradox := x } : Slot).Running c .paradox :=
  h.of_update rfl h.acc h.ioprox ⟨fun hne => absurd h.prot_eq hne, hscnt, hsreg, hsearch, hcollect⟩ h.demod

theorem setSync {b : Bool} (h : S.Running c v) (hv : variantProt v = .fdxb ∨ variantProt v = .jablotron) :
    ({ S with sync := b } : Slot).Running c v := by
  obtain ⟨-, hwindows⟩ := h.demod
  rw [← h.prot_eq] at hv
  exact h.of_update rfl h.acc h.ioprox h.paradox
    ⟨fun hf hj => (hv.elim hf hj).elim, hwindows⟩

end Slot.Running

/-! ### The demodulators' windows (R44, R45) -/

/-- The FSK window has n samples and its count stays below n. -/
def FskDemod.Ok (n : Nat) (d : FskDemod) : Prop := d.win.length = n ∧ d.cnt.toNat < max 1 n

/-- The PSK window has n samples, its count stays below n, and past the first window it is at least half full. -/
def PskDemod.Ok (n : Nat) (d : PskDemod) : Prop :=
  d.win.length = n ∧ d.cnt.toNat < max 1 n ∧ (d.prevValid = true → n / 2 ≤ d.cnt.toNat)
    ∧ (d.prevValid = false → d.prevSum = 0)

theorem fskStep_ok {n eps : Nat} {d : FskDemod} (x : BitVec 16) (hn : n ≤ 65536) (h : d.Ok n) :
    (fskStep n eps d x).1.Ok n := by
  obtain ⟨hwin, -⟩ := h
  have hset : (d.win.set d.cnt.toNat x).length = n := by rw [List.length_set, hwin]
  rcases Nat.lt_or_ge (d.cnt.toNat + 1) n with hcnt | hcnt
  · rw [fskStep_inside hcnt]
    exact ⟨hset, by rw [BitVec.toNat_ofNat]; omega⟩
  · rw [fskStep_full hcnt]
    exact ⟨hset, by simp⟩

/-- Half the window is dropped and half is kept twice: the length stays (R170). -/
theorem length_slideWindow {n : Nat} {win : List (BitVec 16)} (heven : n % 2 = 0) (h : win.length = n) :
    (slideWindow n win).length = n := by
  simp only [slideWindow, List.length_append, List.length_take, List.length_drop]
  omega

theorem pskStep_ok {n : Nat} {d : PskDemod} (x : BitVec 16) (hlow : 2 ≤ n) (hhigh : n ≤ 65535)
    (heven : n % 2 = 0) (h : d.Ok n) : (pskStep n d x).1.Ok n := by
  obtain ⟨hwin, -, hhalf, hsum⟩ := h
  have hset : (d.win.set d.cnt.toNat x).length = n := by rw [List.length_set, hwin]
  rcases Nat.lt_or_ge (d.cnt.toNat + 1) n with hcnt | hcnt
  · rw [pskStep_inside hcnt]
    have hnat : (BitVec.ofNat 16 (d.cnt.toNat + 1)).toNat = d.cnt.toNat + 1 := by
      rw [BitVec.toNat_ofNat]; omega
    exact ⟨hset, by rw [hnat]; omega, fun hv => by rw [hnat]; exact (hhalf hv).trans (Nat.le_succ _), hsum⟩
  · rw [pskStep_full hcnt]
    have hnat : (BitVec.ofNat 16 (n / 2)).toNat = n / 2 := by rw [BitVec.toNat_ofNat]; omega
    exact ⟨length_slideWindow heven hset, by rw [hnat]; omega, fun _ => hnat.ge, fun hv => nomatch hv⟩

namespace Slot.Running
variable {c : Config} {v : Variant} {S : Slot}

theorem fsk_ok (h : S.Running c v) : S.fsk.Ok (c.fskN S.prot) := by
  obtain ⟨-, hwin, hcnt, -⟩ := h.demod
  exact ⟨hwin, hcnt⟩

theorem psk_ok (h : S.Running c v) : S.psk.Ok (c.pskWidth S.prot) := by
  obtain ⟨-, -, -, hwin, hcnt, hhalf, hsum⟩ := h.demod
  exact ⟨hwin, hcnt, fun hv => (hhalf hv).1, hsum⟩

theorem setFsk {d : FskDemod} (h : S.Running c v) (hd : d.Ok (c.fskN S.prot)) :
    ({ S with fsk := d } : Slot).Running c v := by
  obtain ⟨hsync, -, -, hpsk⟩ := h.demod
  obtain ⟨hwin, hcnt⟩ := hd
  exact h.of_update rfl h.acc h.ioprox h.paradox ⟨hsync, hwin, hcnt, hpsk⟩

theorem setPsk {d : PskDemod} (h : S.Running c v) (hv : variantProt v = .indala)
    (hd : d.Ok (c.pskWidth S.prot)) : ({ S with psk := d } : Slot).Running c v := by
  obtain ⟨hsync, hfwin, hfcnt, -⟩ := h.demod
  obtain ⟨hwin, hcnt, hhalf, hsum⟩ := hd
  exact h.of_update rfl h.acc h.ioprox h.paradox
    ⟨hsync, hfwin, hfcnt, hwin, hcnt, fun hp => ⟨hhalf hp, h.prot_eq.trans hv⟩, hsum⟩

end Slot.Running

/-! ### What a FEED rule leaves -/

/-- The slot runs on, and an identifier captured has the payload's length (R33). -/
structure Fed.Ok (c : Config) (v : Variant) (r : Fed) : Prop where
  running : r.slot.Running c v
  length : ∀ id, r.id = some id → id.length = payload v

theorem Fed.ok_none {c : Config} {v : Variant} {S : Slot} (h : S.Running c v) : Fed.Ok c v ⟨S, none⟩ :=
  ⟨h, fun _ hid => nomatch hid⟩

theorem Fed.ok_some {c : Config} {v : Variant} {S : Slot} {id : List Byte} (h : S.Running c v)
    (hlen : id.length = payload v) : Fed.Ok c v ⟨S, some id⟩ :=
  ⟨h, fun _ hid => by cases hid; exact hlen⟩

/-- A captured identifier is followed by zeros (R35). -/
theorem zeroFrom_padId (id : List Byte) : zeroFrom (padId id) id.length := by
  intro k hk
  simp [padId_getElem, List.getElem?_eq_none hk]

/-- A slot keeps the invariant when the identifier is stored; PAC stores none (R333). -/
theorem Fed.Ok.stored_inv {c : Config} {v : Variant} {r : Fed} (h : r.Ok c v) (hpac : v ≠ .pac) :
    r.stored.Inv c = true := by
  obtain ⟨S, none | id⟩ := r
  · exact h.running.inv
  · obtain ⟨hrun, hlength⟩ := h
    obtain ⟨-, hformat, -⟩ := hrun.control
    have hlen : id.length = payload S.variant := (hlength id rfl).trans (congrArg payload hrun.variant.symm)
    change ({ S with idBuf := padId id, dataValid := true } : Slot).Inv c = true
    refine Slot.inv_iff.mpr ⟨⟨fun hf => ?_, hformat, by simp, ?_, fun hp => ?_⟩,
      hrun.acc, hrun.ioprox, hrun.paradox, hrun.demod⟩
    · exact absurd (hrun.alloc.symm.trans hf) (by decide)
    · exact hlen ▸ zeroFrom_padId id
    · exact absurd (variantProt_eq_pac.mp (hrun.prot_eq.symm.trans hp)) hpac

section Demodulated
variable {c : Config} {v : Variant} {S : Slot} {onBit : Bool → Slot → Fed}

theorem feedBiphase_ok {clear : Slot → Slot} (i : Nat) (h : S.Running c v)
    (hv : variantProt v = .fdxb ∨ variantProt v = .jablotron)
    (hclear : ∀ T, T.Running c v → (clear T).Running c v) (hbit : ∀ b T, T.Running c v → (onBit b T).Ok c v) :
    (feedBiphase clear onBit i S).Ok c v := by
  obtain ⟨-, heq⟩ | ⟨-, -, heq⟩ | ⟨b, -, -, heq⟩ := feedBiphase_cases clear onBit i S <;> rw [heq]
  · exact Fed.ok_none (hclear _ (h.setSync hv))
  · exact Fed.ok_none (h.setSync hv)
  · exact hbit b _ (h.setSync hv)

theorem feedFsk_ok (x : BitVec 16) (hc : c.wf = true) (h : S.Running c v)
    (hbit : ∀ b T, T.Running c v → (onBit b T).Ok c v) : (feedFsk onBit x c S).Ok c v := by
  have hstep := h.setFsk (fskStep_ok (eps := c.fskEps) x (fskN_le_of_wf hc S.prot) h.fsk_ok)
  obtain ⟨-, heq⟩ | ⟨b, -, heq⟩ := feedFsk_cases onBit x c S <;> rw [heq]
  · exact Fed.ok_none hstep
  · exact hbit b _ hstep

theorem feedPsk_ok (x : BitVec 16) (hc : c.wf = true) (h : S.Running c v) (hv : variantProt v = .indala)
    (hbit : ∀ b T, T.Running c v → (onBit b T).Ok c v) : (feedPsk onBit x c S).Ok c v := by
  obtain ⟨hlow, hhigh, heven⟩ := pskN_of_wf hc
  have hwidth : c.pskWidth S.prot = c.pskN := by rw [h.prot_eq, hv]; rfl
  have hok := h.psk_ok
  have hstep := h.setPsk (d := (pskStep (c.pskWidth S.prot) S.psk x).1) hv
    (by rw [hwidth] at hok ⊢; exact pskStep_ok x hlow hhigh heven hok)
  obtain ⟨-, heq⟩ | ⟨b, -, heq⟩ := feedPsk_cases onBit x c S <;> rw [heq]
  · exact Fed.ok_none hstep
  · exact hbit b _ hstep

end Demodulated

/-! ### The codecs' bit rules -/

/-- A count that saturates at L is stored uncut in a field that holds L. -/
theorem toNat_ofNat_min {w k L : Nat} (hL : L < 2 ^ w) : (BitVec.ofNat w (min k L)).toNat = min k L := by
  rw [BitVec.toNat_ofNat]
  exact Nat.mod_eq_of_lt ((Nat.min_le_right k L).trans_lt hL)

section Codecs
variable {c : Config} {S : Slot}

theorem fdxbBit_ok (b : Bool) (h : S.Running c .fdxb) : (fdxbBit b S).Ok c .fdxb := by
  obtain ⟨-, -, hlt, -⟩ := h.acc
  have hcnt := toNat_ofNat_min (w := 8) (k := S.fdxb.cnt.toNat + 1) (L := 128) (by decide)
  simp only [fdxbBit]
  split
  · exact Fed.ok_some (h.setFdxb (by decide) (by decide)) (by simp [extractFdxb, payload])
  · exact Fed.ok_none (h.setFdxb (by rw [hcnt]; omega) (by rw [hcnt]; exact shiftIn_lt b hlt))

theorem jablotronBit_ok (b : Bool) (h : S.Running c .jablotron) : (jablotronBit b S).Ok c .jablotron := by
  obtain ⟨-, -, -, -, -, -, -, -, hlt⟩ := h.acc
  have hcnt := toNat_ofNat_min (w := 7) (k := S.jablotron.cnt.toNat + 1) (L := 64) (by decide)
  simp only [jablotronBit]
  split
  · exact Fed.ok_some (h.setJablotron (by decide) (by decide)) rfl
  · exact Fed.ok_none (h.setJablotron (by rw [hcnt]; omega) (by rw [hcnt]; exact shiftIn_lt b hlt))

theorem indala64Bit_ok (m : IndalaMap) (b : Bool) (h : S.Running c .indala64) :
    (indala64Bit m b S).Ok c .indala64 := by
  obtain ⟨-, -, -, -, -, hlt, -⟩ := h.acc
  have hlow : (S.indala.acc.truncate 64).toNat < 2 ^ S.indala.cnt.toNat := by
    rw [BitVec.truncate_eq_setWidth, BitVec.toNat_setWidth]
    exact (Nat.mod_le _ _).trans_lt hlt
  have hcnt := toNat_ofNat_min (w := 8) (k := S.indala.cnt.toNat + 1) (L := 64) (by decide)
  have hshift := shiftIn_lt b hlow
  simp only [indala64Bit]
  split
  · exact Fed.ok_some (h.setIndala rfl (by decide) (by decide)) (by simp [extractIndala64, payload])
  · refine Fed.ok_none (h.setIndala rfl (by rw [hcnt]; exact Nat.min_le_right _ _) ?_)
    rw [hcnt, BitVec.zeroExtend_eq_setWidth, BitVec.toNat_setWidth]
    exact (Nat.mod_le _ _).trans_lt hshift

theorem indala224Bit_ok (b : Bool) (h : S.Running c .indala224) : (indala224Bit b S).Ok c .indala224 := by
  obtain ⟨-, -, -, -, -, hlt, -⟩ := h.acc
  have hcnt := toNat_ofNat_min (w := 8) (k := S.indala.cnt.toNat + 1) (L := 224) (by decide)
  simp only [indala224Bit]
  split
  · exact Fed.ok_some (h.setIndala rfl (by decide) (by decide)) (by simp [extractIndala224, payload])
  · exact Fed.ok_none (h.setIndala rfl (by rw [hcnt]; exact Nat.min_le_right _ _)
      (by rw [hcnt]; exact shiftIn_lt b hlt))

/-- A window whose oldest bits are a number below 2^i has no bit above the i bits and the j below them. -/
theorem lt_two_pow_of_div_lt {x i j : Nat} (h : x / 2 ^ j < 2 ^ i) : x < 2 ^ (i + j) := by
  rw [pow_add]
  exact (Nat.div_lt_iff_lt_mul (by positivity)).mp h

theorem ioproxWindow_length {W : List Bool} {id : List Byte} (h : ioproxWindow W = some id) :
    id.length = 5 := by
  simp only [ioproxWindow] at h
  split at h <;> cases h
  rfl

theorem ioproxBit_search_ok (b : Bool) (h : S.Running c .ioprox) (hmode : S.ioprox.mode = .search) :
    (ioproxBit b S).Ok c .ioprox := by
  obtain ⟨-, hsearch, -⟩ := h.ioprox
  have hempty := hsearch hmode
  have hkeep : ∀ z, ({ S with ioprox := { S.ioprox with zrun := z } } : Slot).Running c .ioprox := fun z =>
    h.setIoprox (fun _ => hempty) (fun hcollect => nomatch hmode.symm.trans hcollect)
  simp only [ioproxBit, hmode]
  split
  · exact Fed.ok_none (hmode ▸ hkeep _)
  · split
    next hzrun => exact Fed.ok_none (h.setIoprox (fun hm => nomatch hm) fun _ => ⟨hzrun, by dsimp only; decide⟩)
    next => exact Fed.ok_none (hmode ▸ hkeep _)

theorem ioproxBit_collect_ok (b : Bool) (h : S.Running c .ioprox) (hmode : S.ioprox.mode = .collect) :
    (ioproxBit b S).Ok c .ioprox := by
  obtain ⟨-, -, hcollect⟩ := h.ioprox
  obtain ⟨hzrun, hlow, hhigh, holdest⟩ := hcollect hmode
  have hlt : S.ioprox.win.toNat < 2 ^ (1 + (S.ioprox.wcnt.toNat - 1)) :=
    lt_two_pow_of_div_lt (by rw [holdest]; decide)
  simp only [ioproxBit, hmode]
  split
  next hmore =>
    have hwcnt : (BitVec.ofNat 6 (S.ioprox.wcnt.toNat + 1)).toNat = S.ioprox.wcnt.toNat - 1 + 1 + 1 := by
      rw [BitVec.toNat_ofNat]; omega
    refine Fed.ok_none (h.setIoprox (fun hm => nomatch hm) fun _ => ⟨hzrun, ?_, ?_, ?_⟩) <;> dsimp only <;>
      rw [hwcnt]
    · omega
    · omega
    · rw [Nat.add_sub_cancel, shiftIn_div b hlt (by omega), holdest]
  next => exact ⟨h.setIoprox (fun _ => ⟨rfl, rfl⟩) (fun hm => nomatch hm), fun _ => ioproxWindow_length⟩

theorem ioproxBit_ok (b : Bool) (h : S.Running c .ioprox) : (ioproxBit b S).Ok c .ioprox := by
  cases hmode : S.ioprox.mode with
  | search => exact ioproxBit_search_ok b h hmode
  | collect => exact ioproxBit_collect_ok b h hmode

theorem paradoxBit_search_ok (b : Bool) (h : S.Running c .paradox) (hmode : S.paradox.mode = .search) :
    (paradoxBit b S).Ok c .paradox := by
  obtain ⟨-, -, hsreg, hsearch, -⟩ := h.paradox
  have hscnt := toNat_ofNat_min (w := 4) (k := S.paradox.scnt.toNat + 1) (L := 8) (by decide)
  have hshift := shiftIn_lt b hsreg
  simp only [paradoxBit, hmode]
  split
  · exact Fed.ok_none (h.setParadox (by rw [hscnt]; omega) (by rw [hscnt]; exact hshift) (fun hm => nomatch hm)
      fun _ => by dsimp only; decide)
  · exact Fed.ok_none (h.setParadox (by rw [hscnt]; omega) (by rw [hscnt]; exact hshift)
      (fun _ => hsearch hmode) fun hm => nomatch hm)

theorem paradoxBit_collect_ok (b : Bool) (h : S.Running c .paradox) (hmode : S.paradox.mode = .collect) :
    (paradoxBit b S).Ok c .paradox := by
  obtain ⟨-, hscnt, hsreg, -, hcollect⟩ := h.paradox
  obtain ⟨hlow, hhigh, holdest⟩ := hcollect hmode
  have hlt : S.paradox.buf.toNat < 2 ^ (8 + (S.paradox.bcnt.toNat - 8)) :=
    lt_two_pow_of_div_lt (by rw [holdest]; decide)
  simp only [paradoxBit, hmode]
  split
  next hmore =>
    have hbcnt : (BitVec.ofNat 7 (S.paradox.bcnt.toNat + 1)).toNat = S.paradox.bcnt.toNat - 8 + 1 + 8 := by
      rw [BitVec.toNat_ofNat]; omega
    refine Fed.ok_none (h.setParadox hscnt hsreg (fun hm => nomatch hm) fun _ => ⟨?_, ?_, ?_⟩) <;> dsimp only <;>
      rw [hbcnt]
    · omega
    · omega
    · rw [Nat.add_sub_cancel, shiftIn_div b hlt (by omega), holdest]
  next =>
    exact Fed.ok_some (h.setParadox (by decide) (by decide) (fun _ => ⟨rfl, rfl⟩) fun hm => nomatch hm)
      (by simp [payload])

theorem paradoxBit_ok (b : Bool) (h : S.Running c .paradox) : (paradoxBit b S).Ok c .paradox := by
  cases hmode : S.paradox.mode with
  | search => exact paradoxBit_search_ok b h hmode
  | collect => exact paradoxBit_collect_ok b h hmode

/-- Every FEED rule leaves a running slot. -/
theorem feedRule_ok {v : Variant} (data : BitVec 16) (hc : c.wf = true) (h : S.Running c v) :
    (feedRule v data c S).Ok c v := by
  cases v with
  | fdxb => exact feedBiphase_ok _ h (.inl rfl) (fun _ hT => hT.setFdxb (by decide) (by decide)) fun b _ => fdxbBit_ok b
  | jablotron =>
    exact feedBiphase_ok _ h (.inr rfl) (fun _ hT => hT.setJablotron (by decide) (by decide)) fun b _ => jablotronBit_ok b
  | indala64 => exact feedPsk_ok _ hc h rfl fun b _ => indala64Bit_ok _ b
  | indala224 => exact feedPsk_ok _ hc h rfl fun b _ => indala224Bit_ok b
  | ioprox => exact feedFsk_ok _ hc h fun b _ => ioproxBit_ok b
  | paradox => exact feedFsk_ok _ hc h fun b _ => paradoxBit_ok b
  | pac => exact Fed.ok_none h

end Codecs

end Sys2Proof.Machine
end

section
/-! PROOFS. Every step keeps the machine's invariant (10_state.md, R97, R356): the slots, the buffers and RESP
one after the other, then the effects of a command, the HOST's accesses, and the step. -/

namespace Sys2Proof.Machine

/-! ### The slots that reset, ALLOC, FREE and START write -/

theorem zeroFrom_zero (n : Nat) : zeroFrom IdBytes.zero n := by
  intro k _
  simp [IdBytes.zero]

theorem free_inv (c : Config) : Slot.free.Inv c = true := by
  refine Slot.inv_iff.mpr ⟨⟨fun _ => rfl, by decide, fun _ => rfl, zeroFrom_zero _, fun _ => rfl⟩,
    by decide, by decide, by decide, ?_⟩
  simp [Slot.demodOk, Slot.free, Config.fskN, Config.pskWidth]

theorem fresh_inv (c : Config) {p : Prot} {f : Layout} (hf : f = .l224 → p = .indala) :
    (Slot.fresh c p f).Inv c = true := by
  refine Slot.inv_iff.mpr ⟨⟨by simp [Slot.fresh], hf, fun _ => rfl, zeroFrom_zero _, fun _ => rfl⟩, ?_, ?_, ?_, ?_⟩
  · simp [Slot.accOk, Slot.fresh, Slot.free, FdxbCodec.zero, IndalaCodec.zero, JablotronCodec.zero]
  · simp [Slot.ioproxOk, Slot.fresh, Slot.free, IoproxCodec.zero]
  · simp [Slot.paradoxOk, Slot.fresh, Slot.free, ParadoxCodec.zero]
  · simp [Slot.demodOk, Slot.fresh, Slot.free]

/-- START's second layout is INDALA's alone (R95). -/
theorem prot_of_layoutOfFmt {p : Prot} {fmt : BitVec 4} {f : Layout} (h : layoutOfFmt p fmt = some f)
    (hf : f = .l224) : p = .indala := by
  subst hf
  unfold layoutOfFmt at h
  split at h
  · cases h
  · split at h
    next hp => exact hp.2
    next => cases h

/-! ### The state's operations -/

section Operations
variable {s : State}

theorem inv_setResp {r : Word} (h : s.Inv) (hr : respOk r) : (s.setResp r).Inv := by
  obtain ⟨hcfg, hlen, hslots, hbuffers, -⟩ := h
  exact ⟨hcfg, hlen, hslots, hbuffers, hr⟩

theorem inv_raise (e : Status) (h : s.Inv) : (s.raise e).Inv := inv_setResp h (respOk_errorResp e)

theorem inv_setSlot {S : Slot} (n : Nat) (h : s.Inv) (hS : S.Inv s.cfg = true) : (s.setSlot n S).Inv := by
  obtain ⟨hcfg, hlen, hslots, hbuffers, hresp⟩ := h
  refine ⟨hcfg, (List.length_set ..).trans hlen, fun T hT => ?_, hbuffers, hresp⟩
  obtain hT | rfl := List.mem_or_eq_of_mem_set hT
  · exact hslots T hT
  · exact hS

/-- Every buffer fits the 16 bits of its WAVE_LEN (R49, R356). -/
theorem waveCap_lt {c : Config} (hc : c.wf = true) (p : Prot) : waveCap c p < 2 ^ 16 := by
  have hioprox := bitrate_le_of_wf hc .ioprox
  have hparadox := bitrate_le_of_wf hc .paradox
  cases p <;> simp only [waveCap] <;> omega

theorem inv_setWave {p : Prot} {seq : List Segment} (h : s.Inv) (hseq : seq.length ≤ waveCap s.cfg p) :
    (s.setWave p seq).Inv := by
  obtain ⟨hcfg, hlen, hslots, ⟨hwaves, hblocks⟩, hresp⟩ := h
  refine ⟨hcfg, hlen, hslots, ⟨fun q hq => ?_, hblocks⟩, hresp⟩
  rw [setWave_getElem]
  split
  next heq =>
    subst heq
    have hcount : (BitVec.ofNat 16 seq.length).toNat = seq.length := by
      rw [BitVec.toNat_ofNat]
      exact Nat.mod_eq_of_lt (hseq.trans_lt (waveCap_lt hcfg p))
    exact ⟨hcount.symm, hcount.trans_le hseq⟩
  next => exact hwaves q hq

theorem inv_setBlocks {blk : List Word} (h : s.Inv) (hblk : blk.length ≤ 8) : (s.setBlocks blk).Inv := by
  obtain ⟨hcfg, hlen, hslots, ⟨hwaves, -⟩, hresp⟩ := h
  have hcount : (BitVec.ofNat 4 blk.length).toNat = blk.length := by rw [BitVec.toNat_ofNat]; omega
  refine ⟨hcfg, hlen, hslots, ⟨hwaves, hcount.trans_le hblk, fun k hk => ?_⟩, hresp⟩
  rw [State.setBlocks_blockCount, hcount] at hk
  simp [padBlocks_getElem, List.getElem?_eq_none hk]

end Operations

/-! ### The step -/

/-- The effect of a command keeps the invariant. -/
theorem effect_inv {i : Instr} {s t : State} (h : Effect s i t) (hs : s.Inv) : t.Inv := by
  have ⟨hwf, _, hslots, _⟩ := hs
  cases h with
  | raised _ e => exact inv_raise e hs
  | answered => exact inv_setResp hs (respOk_resultResp _)
  | allocated p n =>
    exact inv_setResp (inv_setSlot n hs (fresh_inv s.cfg (fun hf => nomatch hf))) (respOk_handleResp _)
  | freed n => exact inv_setResp (inv_setSlot _ hs (free_inv s.cfg)) (respOk_resultResp 0)
  | started n fmt S f hS hf =>
    exact inv_setResp (inv_setSlot _ hs (fresh_inv s.cfg (prot_of_layoutOfFmt hf))) (respOk_resultResp 0)
  | fed v n data S hS hv hpac =>
    obtain ⟨hslot, ha⟩ := allocated?_eq_some.mp hS
    have hrun := hv ▸ Slot.Running.of_inv ha (hslots S (List.mem_of_getElem? hslot))
    exact inv_setResp (inv_setSlot _ hs ((feedRule_ok data hwf hrun).stored_inv hpac)) (respOk_feedResp v _)
  | gotData => exact inv_setResp hs (respOk_resultResp _)
  | modulated v n seq hseq =>
    exact inv_setResp (inv_setWave hs (hseq ▸ length_renderer_le v s.cfg (framesHaveTheirLength v s.cfg _)))
      (respOk_resultResp _)
  | written v n blk hblk =>
    exact inv_setResp (inv_setBlocks hs (hblk ▸ length_t5577Blocks_le v _ (framesHaveTheirLength v s.cfg _)))
      (respOk_resultResp _)

/-- The state after reset of a legal configuration has the invariant (R400). -/
theorem resetWith_inv {c : Config} (hc : c.wf = true) (h : List HostAction) : (State.resetWith c h).Inv := by
  refine ⟨hc, List.length_replicate, fun S hS => ?_, ⟨fun p _ => ?_, Nat.zero_le 8, fun k _ => ?_⟩, respOk_resultResp 0⟩
  · rw [List.eq_of_mem_replicate hS]
    exact free_inv c
  · simp [State.resetWith, WaveBuf.zero]
  · simp [State.resetWith]

/-- What the HOST does before its next command keeps the invariant (R47, R70, R400). -/
theorem takeCommand_keeps_inv (h : List HostAction) {s : State} (hs : s.Inv) : (takeCommand h s).2.Inv :=
  takeCommand_inv State.Inv (fun _ _ _ hu => hu) (fun _ _ hu => hu) (fun _ h hu => resetWith_inv hu.1 h)
    (fun _ _ hu => hu) h s hs

/-- A command word keeps the invariant, whether it decodes or not. -/
theorem runWord_inv {w : Word} {s t : State} (hs : s.Inv) (h : runWord w s = .next t) : t.Inv := by
  obtain ⟨e, -, rfl⟩ | ⟨i, -, hexec⟩ := runWord_next h
  · exact inv_raise _ hs
  · exact effect_inv (effect_of_exec hexec) hs

/-- Settles O11: the HOST's accesses keep the invariant, and so does the command they end in. -/
theorem stepKeepsTheInvariant : Obligations.StepKeepsTheInvariant := by
  unfold Obligations.StepKeepsTheInvariant
  intro s t hs h
  have hfetched := takeCommand_keeps_inv s.host hs
  obtain ⟨-, rfl⟩ | ⟨w, -, hrun⟩ := step_next h
  · exact hfetched
  · exact runWord_inv hfetched hrun

end Sys2Proof.Machine
end

section
/-! PROOFS. The order of the HOST's accesses: what precedes a command is done before it runs (R78, R79, R400),
and a command word runs the instruction it decodes to (R90, R102). -/

namespace Sys2Proof.Machine

/-! ### What the engine takes next -/

/-- The HOST's accesses are done in the order of the list taken, whatever list the state still holds. -/
@[simp] theorem takeCommand_setHost (h g : List HostAction) (s : State) :
    takeCommand h (s.setHost g) = takeCommand h s := by
  induction h generalizing s with
  | nil => rfl
  | cons a h ih =>
    cases a with
    | writeCmd w => rfl
    | writeIdIn k b => exact ih (s.setIdIn k b)
    | assertReset => rfl

theorem fetch_of_writeIdIn {s : State} {k : Fin 28} {b : Byte} {rest : List HostAction}
    (h : s.host = .writeIdIn k b :: rest) : s.fetch = ((s.setIdIn k b).setHost rest).fetch := by
  simp only [State.fetch, h, State.setHost_host, takeCommand_writeIdIn, takeCommand_setHost]

theorem fetch_of_assertReset {s : State} {rest : List HostAction} (h : s.host = .assertReset :: rest) :
    s.fetch = (State.resetWith s.cfg rest).fetch := by
  rw [State.fetch, h, takeCommand_assertReset]
  rfl

theorem setHost_eq_self {s : State} {g : List HostAction} (h : s.host = g) : s.setHost g = s := by
  subst h; rfl

theorem fetch_of_nil {s : State} (h : s.host = []) : s.fetch = (none, s) := by
  rw [State.fetch, h, takeCommand_nil, setHost_eq_self h]

/-! ### The step -/

/-- A step is a function of what the engine takes. -/
theorem step_congr_fetch {s t : State} (h : s.fetch = t.fetch) : step s = step t := by
  unfold step; rw [h]

theorem step_of_nil {s : State} (h : s.host = []) : step s = .next s := by
  rw [step, fetch_of_nil h]

theorem runWord_of_decode {s : State} {w : Word} {i : Instr}
    (h : decode (s.variantAt (fieldSlot w)) w = .ok i) : runWord w s = exec i s := by
  rw [runWord, h]

/-- The row of a word is chosen by the slots alone (R102): neither CMD nor the HOST's list has a part in it. -/
theorem variantAt_setCmd_setHost (s : State) (w : Word) (rest : List HostAction) (n : BitVec 4) :
    ((s.setCmd w).setHost rest).variantAt n = s.variantAt n := rfl

/-- Settles O6: the fetch writes CMD and moves the HOST on, and neither changes what the word decodes to. -/
theorem stepRunsTheDecodedInstruction : Obligations.StepRunsTheDecodedInstruction := by
  unfold Obligations.StepRunsTheDecodedInstruction
  intro s w rest i hhost hdecode
  rw [step_of_writeCmd hhost,
    runWord_of_decode ((congrArg (decode · w) (variantAt_setCmd_setHost s w rest _)).trans hdecode)]
  rfl

/-- Settles O7: the engine takes the same command, in the same state, when the first access is done already. -/
theorem hostAccessesComeBeforeTheCommand : Obligations.HostAccessesComeBeforeTheCommand := by
  unfold Obligations.HostAccessesComeBeforeTheCommand
  intro s rest
  refine ⟨fun k b hwrite => ?idIn, fun hreset => ?reset, fun hwait => ?wait⟩
  case idIn => exact step_congr_fetch (fetch_of_writeIdIn hwrite)
  case reset => exact step_congr_fetch (fetch_of_assertReset hreset)
  case wait => exact step_of_nil hwait

end Sys2Proof.Machine
end

section
/-! SUPPORT. The encoding tables of R91 to R94 as one relation between words and instructions: `decode_eq_ok_iff`
says that the decoder is that relation, `TableRow.encode_and_selectedBy` and `tableRow_encode` that the encoder is. -/

namespace Sys2Proof.Machine

/-! ### A word and its fields (R91) -/

/-- A word is nothing but its five fields. -/
theorem packWord_fields (w : Word) :
    packWord (fieldOp w) (fieldSel w) (fieldSlot w) (fieldFmt w) (fieldData w) = w := by
  simp only [packWord, fieldOp, fieldSel, fieldSlot, fieldFmt, fieldData]
  repeat rw [BitVec.extractLsb'_append_extractLsb'_eq_extractLsb' (by rfl)]
  exact BitVec.extractLsb'_eq_self

theorem fieldDataHigh_eq (w : Word) : fieldDataHigh w = (fieldData w).extractLsb' 8 8 := by
  refine BitVec.eq_of_toNat_eq ?_
  simp only [fieldDataHigh, fieldData, BitVec.extractLsb'_toNat, Nat.shiftRight_eq_div_pow]
  omega

theorem fieldLen_eq (w : Word) : fieldLen w = (fieldData w).extractLsb' 0 8 := by
  refine BitVec.eq_of_toNat_eq ?_
  simp only [fieldLen, fieldData, BitVec.extractLsb'_toNat, Nat.shiftRight_eq_div_pow]
  omega

/-- A GEN word whose DATA[15:8] is 0 carries LEN alone. -/
theorem fieldData_eq_of_high {w : Word} (h : fieldDataHigh w = 0) : fieldData w = 0#8 ++ fieldLen w := by
  rw [fieldDataHigh_eq] at h
  rw [← BitVec.extractLsb'_eq_self (x := fieldData w),
    ← BitVec.extractLsb'_append_extractLsb'_eq_extractLsb' (start₂ := 8) (len₁ := 8) (len₂ := 8) rfl, h,
    ← fieldLen_eq]
  rfl

@[simp] theorem fieldDataHigh_packWord (op sel slot fmt : BitVec 4) (high len : Byte) :
    fieldDataHigh (packWord op sel slot fmt (high ++ len)) = high := by
  rw [fieldDataHigh_eq, fieldData_packWord, BitVec.extractLsb'_append_eq_left]

@[simp] theorem fieldLen_packWord (op sel slot fmt : BitVec 4) (high len : Byte) :
    fieldLen (packWord op sel slot fmt (high ++ len)) = len := by
  rw [fieldLen_eq, fieldData_packWord, BitVec.extractLsb'_append_eq_right]

/-! ### The fields as numbers (R91) -/

theorem toNat_fieldOp (w : Word) : (fieldOp w).toNat = w.toNat / 2 ^ 28 := by
  have := w.isLt
  simp only [fieldOp, BitVec.extractLsb'_toNat, Nat.shiftRight_eq_div_pow]
  omega

theorem toNat_fieldSel (w : Word) : (fieldSel w).toNat = w.toNat / 2 ^ 24 % 16 := by
  simp [fieldSel, Nat.shiftRight_eq_div_pow]

theorem toNat_fieldSlot (w : Word) : (fieldSlot w).toNat = w.toNat / 2 ^ 20 % 16 := by
  simp [fieldSlot, Nat.shiftRight_eq_div_pow]

theorem toNat_fieldFmt (w : Word) : (fieldFmt w).toNat = w.toNat / 2 ^ 16 % 16 := by
  simp [fieldFmt, Nat.shiftRight_eq_div_pow]

theorem toNat_fieldData (w : Word) : (fieldData w).toNat = w.toNat % 2 ^ 16 := by
  simp [fieldData]

theorem toNat_fieldDataHigh (w : Word) : (fieldDataHigh w).toNat = (fieldData w).toNat / 256 := by
  have := (fieldData w).isLt
  simp only [fieldDataHigh_eq, BitVec.extractLsb'_toNat, Nat.shiftRight_eq_div_pow]
  omega

theorem illegalWord_iff (w : Word) : illegalWord w.toNat ↔
    illegalFields (fieldOp w).toNat (fieldSel w).toNat (fieldSlot w).toNat (fieldFmt w).toNat
      (fieldData w).toNat := by
  rw [illegalWord, toNat_fieldOp, toNat_fieldSel, toNat_fieldSlot, toNat_fieldFmt, toNat_fieldData]

/-! ### The parts of the decoder (R93, R94, R371) -/

theorem checkReserved_eq_ok {zero : Bool} {row : Except DecodeError Instr} {i : Instr} :
    checkReserved zero row = .ok i ↔ zero = true ∧ row = .ok i := by
  cases zero <;> simp [checkReserved]

theorem checkReserved_eq_illegal {zero : Bool} {row : Except DecodeError Instr} :
    checkReserved zero row = .error .illegal ↔ zero = false ∨ row = .error .illegal := by
  cases zero <;> simp [checkReserved]

theorem checkReserved_eq_badProt {zero : Bool} {row : Except DecodeError Instr} :
    checkReserved zero row = .error .badProt ↔ zero = true ∧ row = .error .badProt := by
  cases zero <;> simp [checkReserved]

theorem allocRow_ne_illegal (prot : BitVec 4) : allocRow prot ≠ .error .illegal := by
  unfold allocRow; split <;> simp

theorem allocRow_eq_badProt {prot : BitVec 4} : allocRow prot = .error .badProt ↔ 6 ≤ prot.toNat := by
  unfold allocRow
  split
  case h_7 => simp only [imp_false] at *; exact iff_of_true trivial (by omega)
  all_goals exact iff_of_false nofun (by omega)

theorem genRow_eq_illegal {gsel : BitVec 4} {len : Byte} : genRow gsel len = .error .illegal ↔ 5 ≤ gsel.toNat := by
  unfold genRow
  split
  case h_6 => simp only [imp_false] at *; exact iff_of_true trivial (by omega)
  all_goals exact iff_of_false nofun (by omega)

theorem genRow_ne_badProt (gsel : BitVec 4) (len : Byte) : genRow gsel len ≠ .error .badProt := by
  unfold genRow; split <;> simp

theorem eq_ofNat_of_toNat {n k : Nat} {x : BitVec n} (h : x.toNat = k) : x = BitVec.ofNat n k := by
  simp [← h]

/-- The row of a legal PROT is the one whose word carries that PROT. -/
theorem encode_of_allocRow {prot : BitVec 4} {i : Instr} (h : allocRow prot = .ok i) :
    encode i = packWord 0 prot 0 0 0 ∧ i.row? = none := by
  unfold allocRow at h
  split at h
  case h_7 => cases h
  all_goals
    rename_i hprot
    cases h
    rw [eq_ofNat_of_toNat hprot]
    exact ⟨rfl, rfl⟩

/-- The row of a legal GSEL is the one whose word carries that GSEL. -/
theorem encode_of_genRow {gsel : BitVec 4} {len : Byte} {i : Instr} (h : genRow gsel len = .ok i) :
    encode i = packWord 7 gsel 0 0 (0#8 ++ len) ∧ i.row? = none := by
  unfold genRow at h
  split at h
  case h_6 => cases h
  all_goals
    rename_i hgsel
    cases h
    rw [eq_ofNat_of_toNat hgsel]
    exact ⟨rfl, rfl⟩

/-! ### The table -/

/-- The encoding tables of R91 to R94, one constructor per OP: the word, and the instruction it is in a slot of
variant `v` (R102). -/
inductive TableRow (v : Variant) : Word → Instr → Prop where
  | alloc (prot : BitVec 4) (i : Instr) (hi : allocRow prot = .ok i) : TableRow v (packWord 0 prot 0 0 0) i
  | free (n : BitVec 4) : TableRow v (packWord 1 0 n 0 0) (.free n)
  | start (n fmt : BitVec 4) : TableRow v (packWord 2 0 n fmt 0) (.start n fmt)
  | feed (n : BitVec 4) (data : BitVec 16) : TableRow v (packWord 3 0 n 0 data) (feedRow v n data)
  | getData (n : BitVec 4) : TableRow v (packWord 4 0 n 0 0) (.getData n)
  | modulate (n : BitVec 4) : TableRow v (packWord 5 0 n 0 0) (modulateRow v n)
  | write (n : BitVec 4) : TableRow v (packWord 6 0 n 0 0) (writeRow v n)
  | gen (gsel : BitVec 4) (len : Byte) (i : Instr) (hi : genRow gsel len = .ok i) :
      TableRow v (packWord 7 gsel 0 0 (0#8 ++ len)) i

/-- The decoder answers the instruction of a word of the table. -/
theorem TableRow.decode_eq_ok {v : Variant} {w : Word} {i : Instr} (h : TableRow v w i) : decode v w = .ok i := by
  cases h with
  | alloc prot _ hi => simp [decode, checkReserved, hi]
  | gen gsel len _ hi => simp [decode, checkReserved, hi]
  | feed n data => exact decode_feedWord v n data
  | free | start | getData | modulate | write => simp [decode, checkReserved]

/-- The decoder answers nothing but the instructions of the table. -/
theorem tableRow_of_decode {v : Variant} {w : Word} {i : Instr} (h : decode v w = .ok i) : TableRow v w i := by
  rw [← packWord_fields w]
  unfold decode at h
  split at h
  case h_9 => cases h
  all_goals
    rename_i hop
    obtain ⟨hzero, hi⟩ := checkReserved_eq_ok.mp h
    simp only [Bool.and_eq_true, beq_iff_eq] at hzero
    rw [eq_ofNat_of_toNat hop]
  case h_8 =>
    rw [fieldData_eq_of_high hzero.2]
    simp only [hzero]
    exact .gen _ _ _ hi
  all_goals simp only [hzero]
  case h_1 => exact .alloc _ _ hi
  all_goals cases hi
  case h_2 => exact .free _
  case h_3 => exact .start _ _
  case h_4 => exact .feed _ _
  case h_5 => exact .getData _
  case h_6 => exact .modulate _
  case h_7 => exact .write _

/-- The decoder is the table. -/
theorem decode_eq_ok_iff {v : Variant} {w : Word} {i : Instr} : decode v w = .ok i ↔ TableRow v w i :=
  ⟨tableRow_of_decode, TableRow.decode_eq_ok⟩

/-- A row the word alone selects is one every slot selects (R102). -/
theorem selectedBy_of_row_none {i : Instr} (v : Variant) (h : i.row? = none) : i.selectedBy v = true := by
  simp [Instr.selectedBy, h]

/-- A row the slot selects is the one of the slot's variant (R102). -/
theorem selectedBy_of_row_some {i : Instr} {u v : Variant} (hrow : i.row? = some u) :
    i.selectedBy v = true ↔ u = v := by
  simp [Instr.selectedBy, hrow]

/-- The word of a variant's FEED row (R92), and the variant that selects it (R102). -/
theorem encode_feedRow (v : Variant) (n : BitVec 4) (data : BitVec 16) :
    encode (feedRow v n data) = packWord 3 0 n 0 data ∧ (feedRow v n data).row? = some v := by
  cases v <;> exact ⟨rfl, rfl⟩

/-- The word of a variant's MODULATE row (R92), and the variant that selects it (R102). -/
theorem encode_modulateRow (v : Variant) (n : BitVec 4) :
    encode (modulateRow v n) = packWord 5 0 n 0 0 ∧ (modulateRow v n).row? = some v := by
  cases v <;> exact ⟨rfl, rfl⟩

/-- The word of a variant's WRITE_T5577 row (R92), and the variant that selects it (R102). -/
theorem encode_writeRow (v : Variant) (n : BitVec 4) :
    encode (writeRow v n) = packWord 6 0 n 0 0 ∧ (writeRow v n).row? = some v := by
  cases v <;> exact ⟨rfl, rfl⟩

/-- The encoder answers the word of an instruction of the table, and its slot selects the row. -/
theorem TableRow.encode_and_selectedBy {v : Variant} {w : Word} {i : Instr} (h : TableRow v w i) :
    encode i = w ∧ i.selectedBy v = true := by
  cases h with
  | alloc prot i hi => exact (encode_of_allocRow hi).imp_right (selectedBy_of_row_none v)
  | gen gsel len i hi => exact (encode_of_genRow hi).imp_right (selectedBy_of_row_none v)
  | feed n data => exact (encode_feedRow v n data).imp_right fun hrow => (selectedBy_of_row_some hrow).mpr rfl
  | modulate n => exact (encode_modulateRow v n).imp_right fun hrow => (selectedBy_of_row_some hrow).mpr rfl
  | write n => exact (encode_writeRow v n).imp_right fun hrow => (selectedBy_of_row_some hrow).mpr rfl
  | free | start | getData => exact ⟨rfl, rfl⟩

/-- Every instruction stands in the table, in a slot that selects its row. -/
theorem tableRow_encode {v : Variant} (i : Instr) (h : i.selectedBy v = true) : TableRow v (encode i) i := by
  cases i with
  | allocFdxb | allocIndala | allocIoprox | allocJablotron | allocParadox | allocPac => exact .alloc _ _ rfl
  | genCrc16 | genCrc8Maxim | genXor8 | genSumComp8 | genOddPar7 => exact .gen _ _ _ rfl
  | free n => exact .free n
  | start n fmt => exact .start n fmt
  | getData n => exact .getData n
  | feedFdxb n data | feedIndala64 n data | feedIndala224 n data | feedIoprox n data | feedJablotron n data
  | feedParadox n data | feedPac n data =>
    obtain rfl := (selectedBy_of_row_some rfl).mp h
    exact .feed n data
  | modulateFdxb n | modulateIndala64 n | modulateIndala224 n | modulateIoprox n | modulateJablotron n
  | modulateParadox n | modulatePac n =>
    obtain rfl := (selectedBy_of_row_some rfl).mp h
    exact .modulate n
  | writeT5577Fdxb n | writeT5577Indala64 n | writeT5577Indala224 n | writeT5577Ioprox n | writeT5577Jablotron n
  | writeT5577Paradox n | writeT5577Pac n =>
    obtain rfl := (selectedBy_of_row_some rfl).mp h
    exact .write n

/-! ### The words that are no command (R99) -/

/-- The decoder answers E_ILLEGAL to the words of R91 and R99's list, and to no other. -/
theorem decode_eq_illegal_iff {v : Variant} {w : Word} : decode v w = .error .illegal ↔ illegalWord w.toNat := by
  rw [illegalWord_iff, illegalFields, ← toNat_fieldDataHigh]
  unfold decode
  split
  case h_9 => simp only [imp_false] at *; exact iff_of_true trivial (.inl (by omega))
  all_goals
    rename_i hop
    simp [checkReserved_eq_illegal, allocRow_ne_illegal, genRow_eq_illegal, hop, BitVec.toNat_eq, or_assoc,
      Decidable.imp_iff_not_or]

/-- The decoder answers E_BAD_PROT to a legal ALLOC word with PROT 6..15, and to no other. -/
theorem decode_eq_badProt_iff {v : Variant} {w : Word} : decode v w = .error .badProt ↔
    ¬ illegalWord w.toNat ∧ (fieldOp w).toNat = 0 ∧ 6 ≤ (fieldSel w).toNat := by
  rw [← decode_eq_illegal_iff (v := v)]
  unfold decode
  split
  case h_1 hop =>
    simp [checkReserved_eq_badProt, checkReserved_eq_illegal, allocRow_eq_badProt, allocRow_ne_illegal, hop,
      and_assoc]
  case h_9 => simp
  all_goals
    rename_i hop
    simp [checkReserved_eq_badProt, genRow_ne_badProt, hop]

end Sys2Proof.Machine
end

section
/-! PROOFS. The decoder and the encoder are inverse, the words that are no command, and the fields of RESP
(30_encoding.md). -/

namespace Sys2Proof.Machine

/-- Settles O1: the word of an instruction stands in the table, which the decoder reads. -/
theorem decodeOfEncodeGivesTheInstruction : Obligations.DecodeOfEncodeGivesTheInstruction := by
  unfold Obligations.DecodeOfEncodeGivesTheInstruction
  intro v i hsel
  exact (tableRow_encode i hsel).decode_eq_ok

/-- Settles O2: a word that decodes stands in the table, which the encoder writes. -/
theorem encodeOfDecodeGivesTheWord : Obligations.EncodeOfDecodeGivesTheWord := by
  unfold Obligations.EncodeOfDecodeGivesTheWord
  intro v w i hdecode
  exact (tableRow_of_decode hdecode).encode_and_selectedBy

theorem runWord_of_decode_error {s : State} {w : Word} {e : DecodeError}
    (h : decode (s.variantAt (fieldSlot w)) w = .error e) : runWord w s = .next (s.raise (statusOf e)) := by
  rw [runWord, h]

/-- A step whose command word is none writes CMD, moves the HOST on, and raises the decoder's status. -/
theorem step_of_decode_error {s : State} {w : Word} {rest : List HostAction} {e : DecodeError}
    (hhost : s.host = .writeCmd w :: rest) (h : ∀ v, decode v w = .error e) :
    step s = .next { s with cmd := w, host := rest, resp := errorResp (statusOf e) } := by
  rw [step_of_writeCmd hhost, runWord_of_decode_error (h _)]
  rfl

/-- Settles O3: the decoder refuses the words of R99 with their status, and every refusal is one of those. -/
theorem illegalWordsHaveNoEffectButTheirStatus : Obligations.IllegalWordsHaveNoEffectButTheirStatus := by
  unfold Obligations.IllegalWordsHaveNoEffectButTheirStatus
  intro s w rest hhost
  rw [← toNat_fieldOp, ← toNat_fieldSel]
  refine ⟨fun hill => ?illegal, fun hleg hop hprot => ?badProt, fun hleg hprot v => ?command⟩
  case illegal => exact step_of_decode_error hhost fun _ => decode_eq_illegal_iff.mpr hill
  case badProt => exact step_of_decode_error hhost fun _ => decode_eq_badProt_iff.mpr ⟨hleg, hop, hprot⟩
  case command =>
    cases hdecode : decode v w with
    | ok i => exact ⟨i, rfl⟩
    | error e =>
      cases e with
      | illegal => exact absurd (decode_eq_illegal_iff.mp hdecode) hleg
      | badProt =>
        obtain ⟨-, hop, hsel⟩ := decode_eq_badProt_iff.mp hdecode
        exact absurd (hprot hop) (by omega)

/-- Settles O4: the decoder runs on each word. -/
theorem wordsOfTheTableDecode : Obligations.WordsOfTheTableDecode := by
  unfold Obligations.WordsOfTheTableDecode
  decide

@[simp] theorem respHandle_respWord (status : Status) (done unverified : Bool) (handle : BitVec 4)
    (result : BitVec 16) : respHandle (respWord status done unverified handle result) = handle := by
  simp only [respHandle, respWord, BitVec.extractLsb'_append_eq_ite]; simp

@[simp] theorem respResult_respWord (status : Status) (done unverified : Bool) (handle : BitVec 4)
    (result : BitVec 16) : respResult (respWord status done unverified handle result) = result := by
  simp only [respResult, respWord, BitVec.extractLsb'_append_eq_ite]; simp

/-- Settles O5: each field reads back by its own lemma, and the status numbers by evaluation. -/
theorem responseFieldsReadBack : Obligations.ResponseFieldsReadBack := by
  unfold Obligations.ResponseFieldsReadBack
  refine ⟨fun e done unverified handle result => ?fields, by decide⟩
  exact ⟨respStatus_respWord .., respDone_respWord .., respUnverified_respWord .., respHandle_respWord ..,
    respResult_respWord .., reserved6_respWord .., reserved12_respWord ..⟩

end Sys2Proof.Machine
end

section
/-! SUPPORT. RESP as a number (R97): what the words that the commands answer are in figures. -/

namespace Sys2Proof.Machine

/-- RESP of a command that completed without a capture: RESULT in bits 31:16, HANDLE in bits 11:8, zeros elsewhere. -/
theorem toNat_respWord_ok (handle : BitVec 4) (result : BitVec 16) :
    (respWord .ok false false handle result).toNat = 65536 * result.toNat + 256 * handle.toNat := by
  have hor : result.toNat * 16 * 16 ||| handle.toNat = result.toNat * 16 * 16 + handle.toNat := by
    rw [mul_assoc, mul_comm]
    exact (Nat.two_pow_add_eq_or_of_lt (i := 8) (by omega) _).symm
  simp only [respWord, Status.code, BitVec.toNat_append, Nat.shiftLeft_eq, BitVec.ofBool_false, BitVec.ofNat_eq_ofNat,
    BitVec.toNat_ofNat, Nat.zero_mod, Nat.or_zero, Nat.reducePow, hor]
  omega

theorem resultResp_ofNat (k : Nat) : resultResp (BitVec.ofNat 16 k) = BitVec.ofNat 32 (65536 * k) := by
  refine BitVec.eq_of_toNat_eq ?_
  simp only [resultResp, toNat_respWord_ok, BitVec.ofNat_eq_ofNat, BitVec.toNat_ofNat]
  omega

theorem handleResp_ofNat {n : Nat} (hn : n < 16) : handleResp (BitVec.ofNat 4 n) = BitVec.ofNat 32 (256 * n) := by
  refine BitVec.eq_of_toNat_eq ?_
  simp only [handleResp, toNat_respWord_ok, BitVec.ofNat_eq_ofNat, BitVec.toNat_ofNat]
  omega

/-- A FEED answers DONE on a capture, and UNVERIFIED with it for PARADOX and INDALA224 (R51). -/
theorem feedResp_eq (v : Variant) (done : Bool) :
    feedResp v done = if done then (if v = .paradox ∨ v = .indala224 then 0x30 else 0x10) else 0 := by
  cases done <;> cases v <;> rfl

end Sys2Proof.Machine
end

section
/-! PROOFS. ALLOC, FREE, START and GET_DATA (40_descriptor_ops.md, R120 to R122, R124): each command's answer on
the slots it runs on, then the obligation that writes the slot out field by field. -/

namespace Sys2Proof.Machine

/-! ### The commands on a slot that is allocated, and on one that is not -/

/-- ALLOC on the least free slot (R120). -/
theorem allocate_of_leastFree {p : Prot} {s : State} {n : Nat} (h : s.leastFree? = some n) :
    allocate p s = .next ((s.setSlot n (Slot.fresh s.cfg p .l64)).setResp (handleResp (BitVec.ofNat 4 n))) := by
  simp only [allocate, h]

/-- A free slot below which every slot is allocated is the least free one. -/
theorem leastFree?_of_getElem? {s : State} {n : Nat} {S : Slot} (hS : s.slots[n]? = some S) (hfree : S.alloc = false)
    (hbelow : ∀ (m : Nat) (T : Slot), m < n → s.slots[m]? = some T → T.alloc = true) : s.leastFree? = some n := by
  obtain ⟨hlt, rfl⟩ := List.getElem?_eq_some_iff.mp hS
  exact leastFree?_eq_some.mpr ⟨hlt, hfree, fun m hm => hbelow m _ hm (List.getElem?_eq_getElem (hm.trans hlt))⟩

theorem execFree_of_allocated {s : State} {n : BitVec 4} {S : Slot} (h : s.allocated? n = some S) :
    execFree n s = .next ((s.setSlot n.toNat Slot.free).setResp okResp) := by
  simp only [execFree, h]

theorem execFree_of_not_allocated {s : State} {n : BitVec 4} (h : s.allocated? n = none) :
    execFree n s = .next (s.setResp okResp) := by
  simp only [execFree, h]

theorem execStart_of_layout {s : State} {n fmt : BitVec 4} {S : Slot} {f : Layout} (h : s.allocated? n = some S)
    (hf : layoutOfFmt S.prot fmt = some f) :
    execStart n fmt s = .next ((s.setSlot n.toNat (Slot.fresh s.cfg S.prot f)).setResp okResp) := by
  simp only [execStart, onSlot_of_allocated h, hf]

theorem execStart_of_no_layout {s : State} {n fmt : BitVec 4} {S : Slot} (h : s.allocated? n = some S)
    (hf : layoutOfFmt S.prot fmt = none) : execStart n fmt s = .next (s.raise .badFormat) := by
  simp only [execStart, onSlot_of_allocated h, hf]

theorem execGetData_of_valid {s : State} {n : BitVec 4} {S : Slot} (h : s.allocated? n = some S)
    (hvalid : S.dataValid = true) :
    execGetData n s = .next ((s.setIdOut (firstBytes S.idBuf (payload S.variant))).setResp
      (resultResp (BitVec.ofNat 16 (payload S.variant)))) := by
  simp only [execGetData, onSlot_of_allocated h, hvalid, if_true]

theorem execGetData_of_not_valid {s : State} {n : BitVec 4} {S : Slot} (h : s.allocated? n = some S)
    (hvalid : S.dataValid = false) : execGetData n s = .next (s.raise .dataNotValid) := by
  simp [execGetData, onSlot_of_allocated h, hvalid]

/-! ### START's layouts (R95) -/

theorem layoutOfFmt_eq_some {p : Prot} {fmt : BitVec 4} (h : fmt = 0 ∨ (fmt = 1 ∧ p = .indala)) :
    layoutOfFmt p fmt = some (if fmt = 0 then .l64 else .l224) := by
  obtain rfl | hindala := h
  · rfl
  · obtain ⟨rfl, rfl⟩ := hindala
    rfl

theorem layoutOfFmt_eq_none {p : Prot} {fmt : BitVec 4} (hzero : fmt ≠ 0) (hindala : fmt ≠ 1 ∨ p ≠ .indala) :
    layoutOfFmt p fmt = none := by
  rw [layoutOfFmt, if_neg hzero, if_neg (not_and_or.mpr hindala)]

/-! ### The identifier GET_DATA copies (R124) -/

/-- Byte k of the first m bytes of a buffer written into another: the buffer's byte, 0 past them. -/
theorem padId_firstBytes_getElem (buf : IdBytes) (m : Nat) (k : Fin 28) :
    (padId (firstBytes buf m))[k] = if k.val < m then buf[k] else 0 := by
  rw [Fin.getElem_fin, padId_getElem, firstBytes, List.getD_eq_getElem?_getD, List.getElem?_take]
  split <;> simp

/-! ### The obligations -/

/-- Settles O18: the free slot the hypotheses name is the least one, and ALLOC leaves a fresh slot there. -/
theorem allocZeroesTheLeastFreeSlot : Obligations.AllocZeroesTheLeastFreeSlot := by
  unfold Obligations.AllocZeroesTheLeastFreeSlot
  intro ip hip s n S hn hS hfree hbelow
  have hrow : ip.1 = allocOf ip.2 := by
    revert ip
    decide
  rw [hrow, exec_allocOf, allocate_of_leastFree (leastFree?_of_getElem? hS hfree hbelow), handleResp_ofNat hn]
  rfl

/-- Settles O19: FREE writes the free slot where a slot is allocated, and RESP alone elsewhere. -/
theorem freeClearsAnAllocatedSlot : Obligations.FreeClearsAnAllocatedSlot := by
  unfold Obligations.FreeClearsAnAllocatedSlot
  intro s n
  refine ⟨fun S hS ha => ?allocated, fun hfree => ?free⟩
  case allocated => exact execFree_of_allocated (allocated?_eq_some.mpr ⟨hS, ha⟩)
  case free => exact execFree_of_not_allocated (allocated?_eq_none.mpr hfree)

/-- Settles O20: START leaves a fresh slot of the layout FMT selects, or raises the status of what is missing. -/
theorem startResetsTheSlot : Obligations.StartResetsTheSlot := by
  unfold Obligations.StartResetsTheSlot
  intro s n fmt
  refine ⟨fun S hS ha hfmt => ?layout, fun S hS ha hzero hindala => ?noLayout, fun hfree => ?free⟩
  case layout => exact execStart_of_layout (allocated?_eq_some.mpr ⟨hS, ha⟩) (layoutOfFmt_eq_some hfmt)
  case noLayout =>
    exact execStart_of_no_layout (allocated?_eq_some.mpr ⟨hS, ha⟩) (layoutOfFmt_eq_none hzero hindala)
  case free => exact onSlot_of_not_allocated (allocated?_eq_none.mpr hfree)

/-- Settles O23: GET_DATA writes the payload's bytes and their number, or raises E_DATA_NOT_VALID. -/
theorem getDataCopiesTheIdentifier : Obligations.GetDataCopiesTheIdentifier := by
  unfold Obligations.GetDataCopiesTheIdentifier
  intro s n S hS ha
  have halloc := allocated?_eq_some.mpr ⟨hS, ha⟩
  refine ⟨fun hvalid => ⟨_, execGetData_of_valid halloc hvalid, ?frame, ?bytes⟩, fun hvalid => ?notValid⟩
  case frame => rw [resultResp_ofNat]; rfl
  case bytes => exact padId_firstBytes_getElem S.idBuf (payload S.variant)
  case notValid => exact execGetData_of_not_valid halloc hvalid

end Sys2Proof.Machine
end

section
/-! PROOFS. FEED of the decoding variants (R123, R127): what each rule changes of its slot and what a capture
leaves, codec by codec, then the command. -/

namespace Sys2Proof.Machine

/-! ### A variant's own part of a slot (R52) -/

/-- S with the codec and demodulator of a slot of variant v taken from T. -/
def Slot.withOwnPart (v : Variant) (S T : Slot) : Slot :=
  match v with
  | .fdxb => { S with fdxb := T.fdxb, sync := T.sync }
  | .indala64 | .indala224 => { S with indala := T.indala, psk := T.psk }
  | .ioprox => { S with ioprox := T.ioprox, fsk := T.fsk }
  | .jablotron => { S with jablotron := T.jablotron, sync := T.sync }
  | .paradox => { S with paradox := T.paradox, fsk := T.fsk }
  | .pac => S

/-- T differs from S in the own part of variant v alone. -/
def Slot.OwnPartOnly (v : Variant) (S T : Slot) : Prop := T = S.withOwnPart v T

theorem Slot.OwnPartOnly.trans {v : Variant} {S T U : Slot} (hST : S.OwnPartOnly v T) (hTU : T.OwnPartOnly v U) :
    S.OwnPartOnly v U := by
  rw [OwnPartOnly] at *
  rw [hST] at hTU
  rw [hTU]
  cases v <;> rfl

/-- The fields outside variant v's own part are kept. -/
theorem Slot.OwnPartOnly.frame {v : Variant} {S T : Slot} (h : S.OwnPartOnly v T) :
    T.alloc = S.alloc ∧ T.prot = S.prot ∧ T.format = S.format ∧ T.idBuf = S.idBuf ∧ T.dataValid = S.dataValid
      ∧ (v ≠ .fdxb → T.fdxb = S.fdxb) ∧ (v ≠ .indala64 → v ≠ .indala224 → T.indala = S.indala ∧ T.psk = S.psk)
      ∧ (v ≠ .ioprox → T.ioprox = S.ioprox) ∧ (v ≠ .jablotron → T.jablotron = S.jablotron)
      ∧ (v ≠ .paradox → T.paradox = S.paradox) ∧ (v ≠ .fdxb → v ≠ .jablotron → T.sync = S.sync)
      ∧ (v ≠ .ioprox → v ≠ .paradox → T.fsk = S.fsk) := by
  rw [OwnPartOnly] at h
  rw [h]
  cases v <;> simp [withOwnPart]

/-- The codec of a slot of variant v is as START leaves it (R122, R127). -/
def Slot.CodecStarted (v : Variant) (S : Slot) : Prop :=
  match v with
  | .fdxb => S.fdxb = FdxbCodec.zero
  | .indala64 | .indala224 => S.indala = IndalaCodec.zero
  | .ioprox => S.ioprox = IoproxCodec.zero
  | .jablotron => S.jablotron = JablotronCodec.zero
  | .paradox => S.paradox = ParadoxCodec.zero
  | .pac => True

/-- The codec of variant v, field by field. -/
theorem Slot.CodecStarted.codec_eq {v : Variant} {S : Slot} (h : S.CodecStarted v) :
    (v = .fdxb → S.fdxb = ⟨0, 0⟩) ∧ (v = .indala64 ∨ v = .indala224 → S.indala = ⟨0, 0⟩)
      ∧ (v = .ioprox → S.ioprox = ⟨.search, 0, 0, 0⟩) ∧ (v = .jablotron → S.jablotron = ⟨0, 0⟩)
      ∧ (v = .paradox → S.paradox = ⟨.search, 0, 0, 0, 0⟩) := by
  refine ⟨?_, ?_, ?_, ?_, ?_⟩
  case refine_2 => rintro (rfl | rfl) <;> exact h
  all_goals rintro rfl; exact h

/-- What a FEED rule of variant v makes of slot S: its own part alone changes, and a captured identifier has the
payload's length and leaves the codec re-armed (R123, R127). -/
structure Fed.Advances (v : Variant) (S : Slot) (r : Fed) : Prop where
  ownPart : S.OwnPartOnly v r.slot
  length : ∀ id, r.id = some id → id.length = payload v
  rearmed : ∀ id, r.id = some id → r.slot.CodecStarted v

theorem Fed.advances_none {v : Variant} {S T : Slot} (h : S.OwnPartOnly v T) : Fed.Advances v S ⟨T, none⟩ :=
  ⟨h, nofun, nofun⟩

theorem Fed.advances_some {v : Variant} {S T : Slot} {id : List Byte} (h : S.OwnPartOnly v T)
    (hlen : id.length = payload v) (hstart : T.CodecStarted v) : Fed.Advances v S ⟨T, some id⟩ :=
  ⟨h, fun _ hid => Option.some.inj hid ▸ hlen, fun _ _ => hstart⟩

theorem Fed.Advances.of_ownPartOnly {v : Variant} {S T : Slot} {r : Fed} (h : S.OwnPartOnly v T)
    (hr : r.Advances v T) : r.Advances v S :=
  ⟨h.trans hr.ownPart, hr.length, hr.rearmed⟩

/-! ### The demodulators -/

section Demodulated
variable {v : Variant} {S : Slot} {onBit : Bool → Slot → Fed}

theorem feedBiphase_advances {clear : Slot → Slot} (i : Nat)
    (hsync : ∀ y, S.OwnPartOnly v { S with sync := y }) (hclear : ∀ T : Slot, T.OwnPartOnly v (clear T))
    (hbit : ∀ b T, (onBit b T).Advances v T) : (feedBiphase clear onBit i S).Advances v S := by
  obtain ⟨-, heq⟩ | ⟨-, -, heq⟩ | ⟨b, -, -, heq⟩ := feedBiphase_cases clear onBit i S <;> rw [heq]
  · exact Fed.advances_none ((hsync _).trans (hclear _))
  · exact Fed.advances_none (hsync _)
  · exact (hbit b _).of_ownPartOnly (hsync _)

theorem feedFsk_advances (x : BitVec 16) (c : Config) (hfsk : ∀ d, S.OwnPartOnly v { S with fsk := d })
    (hbit : ∀ b T, (onBit b T).Advances v T) : (feedFsk onBit x c S).Advances v S := by
  obtain ⟨-, heq⟩ | ⟨b, -, heq⟩ := feedFsk_cases onBit x c S <;> rw [heq]
  · exact Fed.advances_none (hfsk _)
  · exact (hbit b _).of_ownPartOnly (hfsk _)

theorem feedPsk_advances (x : BitVec 16) (c : Config) (hpsk : ∀ d, S.OwnPartOnly v { S with psk := d })
    (hbit : ∀ b T, (onBit b T).Advances v T) : (feedPsk onBit x c S).Advances v S := by
  obtain ⟨-, heq⟩ | ⟨b, -, heq⟩ := feedPsk_cases onBit x c S <;> rw [heq]
  · exact Fed.advances_none (hpsk _)
  · exact (hbit b _).of_ownPartOnly (hpsk _)

end Demodulated

/-! ### The codecs' bit rules -/

theorem fdxbBit_advances (b : Bool) (S : Slot) : (fdxbBit b S).Advances .fdxb S := by
  simp only [fdxbBit]
  split
  · exact Fed.advances_some rfl (by simp [extractFdxb, payload]) rfl
  · exact Fed.advances_none rfl

theorem jablotronBit_advances (b : Bool) (S : Slot) : (jablotronBit b S).Advances .jablotron S := by
  simp only [jablotronBit]
  split
  · exact Fed.advances_some rfl rfl rfl
  · exact Fed.advances_none rfl

theorem indala64Bit_advances (m : IndalaMap) (b : Bool) (S : Slot) : (indala64Bit m b S).Advances .indala64 S := by
  simp only [indala64Bit]
  split
  · exact Fed.advances_some rfl (by simp [extractIndala64, payload]) rfl
  · exact Fed.advances_none rfl

theorem indala224Bit_advances (b : Bool) (S : Slot) : (indala224Bit b S).Advances .indala224 S := by
  simp only [indala224Bit]
  split
  · exact Fed.advances_some rfl (by simp [extractIndala224, payload]) rfl
  · exact Fed.advances_none rfl

theorem ioproxBit_advances (b : Bool) (S : Slot) : (ioproxBit b S).Advances .ioprox S := by
  simp only [ioproxBit]
  split
  next hsearch =>
    split
    · exact Fed.advances_none rfl
    · split <;> exact Fed.advances_none rfl
  next hcollect =>
    split
    · exact Fed.advances_none rfl
    · exact ⟨rfl, fun _ => ioproxWindow_length, fun _ _ => rfl⟩

theorem paradoxBit_advances (b : Bool) (S : Slot) : (paradoxBit b S).Advances .paradox S := by
  simp only [paradoxBit]
  split
  next hsearch => split <;> exact Fed.advances_none rfl
  next hcollect =>
    split
    · exact Fed.advances_none rfl
    · exact Fed.advances_some rfl (by simp [payload]) rfl

/-- Every FEED rule advances its own part of the slot, whatever the slot holds. -/
theorem feedRule_advances (v : Variant) (data : BitVec 16) (c : Config) (S : Slot) :
    (feedRule v data c S).Advances v S := by
  cases v with
  | fdxb =>
    rw [feedRule, feedFdxb]
    exact feedBiphase_advances _ (fun _ => rfl) (fun _ => rfl) fdxbBit_advances
  | jablotron =>
    rw [feedRule, feedJablotron]
    exact feedBiphase_advances _ (fun _ => rfl) (fun _ => rfl) jablotronBit_advances
  | indala64 => exact feedPsk_advances _ c (fun _ => rfl) (indala64Bit_advances c.indala)
  | indala224 => exact feedPsk_advances _ c (fun _ => rfl) indala224Bit_advances
  | ioprox => exact feedFsk_advances _ c (fun _ => rfl) ioproxBit_advances
  | paradox => exact feedFsk_advances _ c (fun _ => rfl) paradoxBit_advances
  | pac => exact Fed.advances_none rfl

/-! ### The command -/

/-- FEED on an allocated slot of a decoding variant stores what the variant's rule leaves (R123). -/
theorem exec_feedRow_of_allocated {v : Variant} {s : State} {n : BitVec 4} {S : Slot} (data : BitVec 16)
    (hpac : v ≠ .pac) (hS : s.allocated? n = some S) (hv : S.variant = v) :
    exec (feedRow v n data) s = .next ((s.setSlot n.toNat (feedRule v data s.cfg S).stored).setResp
      (feedResp v (feedRule v data s.cfg S).id.isSome)) := by
  rw [exec_feedRow hpac, feedOn, onRow_of_row hS hv]

/-- Settles O29: the rule advances the slot's own part, and storing a capture adds ID_BUF and DATA_VALID. -/
theorem feedAdvancesOnlyItsOwnSlot : Obligations.FeedAdvancesOnlyItsOwnSlot := by
  unfold Obligations.FeedAdvancesOnlyItsOwnSlot
  intro v s n d S hpac hS ha hv
  have hexec := exec_feedRow_of_allocated d hpac (allocated?_eq_some.mpr ⟨hS, ha⟩) hv
  have hadvances := feedRule_advances v d s.cfg S
  obtain ⟨halloc, hprot, hformat, hbuf, hvalid, hfdxb, hindala, hioprox, hjablotron, hparadox, hsync, hfsk⟩ :=
    hadvances.ownPart.frame
  rw [feedResp_eq] at hexec
  refine ⟨_, _, hexec, ?_⟩
  generalize feedRule v d s.cfg S = r at *
  obtain ⟨T, none | id⟩ := r
  case none =>
    exact ⟨halloc.trans ha, hprot, hformat, hfdxb, hindala, hioprox, hjablotron, hparadox, hsync, hfsk,
      fun _ => ⟨hbuf, hvalid⟩, nofun⟩
  case some =>
    exact ⟨halloc.trans ha, hprot, hformat, hfdxb, hindala, hioprox, hjablotron, hparadox, hsync, hfsk, nofun,
      fun _ => ⟨rfl, hadvances.length id rfl ▸ zeroFrom_padId id, (hadvances.rearmed id rfl).codec_eq⟩⟩

end Sys2Proof.Machine
end

section
/-! PROOFS. MODULATE (R125, R355): the number of segments of each rendering, and what the HOST reads of WAVE after
it. -/

namespace Sys2Proof.Machine

/-! ### The number of segments (R351 to R354) -/

theorem length_fskCell (B : Nat) (b : Bool) : (fskCell B b).length = 2 * (if b then B / 10 else B / 8) := by
  cases b <;> simp [fskCell, Nat.mul_comm]

/-- A 1 takes ⌊B/10⌋ cycles of two segments and a 0 takes ⌊B/8⌋ (R353). -/
theorem length_renderFsk (F : List Bool) (B : Nat) :
    (renderFsk F B).length = 2 * (F.count true * (B / 10) + F.count false * (B / 8)) := by
  induction F with
  | nil => simp [renderFsk]
  | cons b F ih =>
    rw [renderFsk] at ih
    rw [renderFsk, List.flatMap_cons, List.length_append, length_fskCell, ih]
    cases b <;> simp <;> ring

/-- The segment count of a variant's waveform (R355). -/
def segmentCount (v : Variant) (F : List Bool) (B : Nat) : Nat :=
  match v with
  | .fdxb => 256
  | .indala64 => 128
  | .indala224 => 448
  | .jablotron => 128
  | .pac => 128
  | .ioprox | .paradox => 2 * (F.count true * (B / 10) + F.count false * (B / 8))

theorem length_renderer (v : Variant) {F : List Bool} (B : Nat) (hF : F.length = frameLen v) :
    (renderer v F B).length = segmentCount v F B := by
  cases v with
  | fdxb | jablotron => exact (length_renderBiphaseFrom B true F).trans (congrArg (2 * ·) hF)
  | indala64 | indala224 => exact (length_renderPskFrom B false F).trans (congrArg (2 * ·) hF)
  | ioprox | paradox => exact length_renderFsk F B
  | pac => exact (List.length_map _).trans hF

/-! ### What the HOST reads of WAVE (R49, R70) -/

/-- After MODULATE the HOST reads the segments rendered, and (0,0) past them (R125). -/
theorem hostRead_wave_setWave (s : State) (r : Word) {p : Prot} {seq : List Segment} {j : Nat}
    (hj : j < waveCap s.cfg p) :
    ((s.setWave p seq).setResp r).hostRead (.wave p j) = some (.segment (seq.getD j ⟨false, 0⟩)) := by
  rw [State.hostRead, State.waveAt, State.setResp_waves, setWave_getElem, if_pos rfl, State.setResp_cfg,
    State.setWave_cfg, if_pos hj]

/-! ### The command -/

/-- MODULATE on an allocated slot of the variant (R125). -/
theorem exec_modulateRow_of_allocated {v : Variant} {s : State} {n : BitVec 4} {S : Slot}
    (hS : s.allocated? n = some S) (hv : S.variant = v) :
    let seq := renderer v (frameOf v s.cfg (firstBytes s.idIn (payload v))) (s.cfg.bitrate (variantProt v))
    exec (modulateRow v n) s
      = .next ((s.setWave (variantProt v) seq).setResp (resultResp (BitVec.ofNat 16 seq.length))) := by
  rw [exec_modulateRow, modulateOn, onRow_of_row hS hv]

/-- Settles O52: the frame has its length, so the rendering has its count and fits its buffer. -/
theorem modulateWritesTheRenderedFrame : Obligations.ModulateWritesTheRenderedFrame := by
  unfold Obligations.ModulateWritesTheRenderedFrame
  intro v s n S hS ha hv F B seq count p t
  have hseq : seq = renderer v F B := by cases v <;> rfl
  have hcount : count = segmentCount v F B := by cases v <;> rfl
  have hframe : F.length = frameLen v := framesHaveTheirLength v s.cfg _
  have hlen : seq.length = count := by rw [hseq, hcount, length_renderer v B hframe]
  have hcap : count ≤ waveCap s.cfg p := by
    rw [← hlen, hseq]
    exact length_renderer_le v s.cfg hframe
  have ht : t = (s.setWave p seq).setResp (resultResp (BitVec.ofNat 16 seq.length)) := by
    rw [hlen, resultResp_ofNat, State.setWave, hlen]
    rfl
  refine ⟨hlen, hcap, ?exec, fun j hj => ?rendered, fun j hj hlt => ?past⟩
  case exec =>
    rw [ht, hseq]
    exact exec_modulateRow_of_allocated (allocated?_eq_some.mpr ⟨hS, ha⟩) hv
  case rendered =>
    rw [ht, hostRead_wave_setWave s _ (hj.trans_le hcap)]
    simp [hlen, hj]
  case past =>
    rw [ht, hostRead_wave_setWave s _ hlt]
    simp [hlen, hj]

end Sys2Proof.Machine
end

section
/-! PROOFS. WRITE_T5577 (R126, R357): the bits of a frame's 32-bit chunks, and the BLOCKS written. -/

namespace Sys2Proof.Machine

/-! ### The bits of a chunk (R12, R75) -/

/-- The first bit of a sequence is the most significant of its number (R12). -/
theorem testBit_val {F : List Bool} {j : Nat} (hj : j < F.length) :
    (val F).testBit (F.length - 1 - j) = bitAt F j := by
  induction F using List.reverseRecOn with
  | nil => cases hj
  | append_singleton F b ih =>
    rw [List.length_append, List.length_singleton] at hj ⊢
    rw [val_append_singleton, ← Nat.bit_val]
    rcases Nat.lt_succ_iff_lt_or_eq.mp hj with hlt | rfl
    · have hsucc : F.length + 1 - 1 - j = F.length - 1 - j + 1 := by omega
      rw [hsucc, Nat.testBit_bit_succ, ih hlt, bitAt_append_left hlt]
    · rw [Nat.add_sub_cancel, Nat.sub_self, Nat.testBit_bit_zero, bitAt_append_right le_rfl, Nat.sub_self]
      rfl

theorem bitAt_slice {F : List Bool} {lo n j : Nat} (hj : j < n) : bitAt (slice F lo n) j = bitAt F (lo + j) := by
  simp [bitAt, slice, hj]

/-- The first-sent bit of a chunk stands at bit 31 (R75). -/
theorem getLsbD_chunk {F : List Bool} {lo j : Nat} (hlo : lo + 32 ≤ F.length) (hj : j < 32) :
    (BitVec.ofNat 32 (val (slice F lo 32))).getLsbD (31 - j) = bitAt F (lo + j) := by
  have hlen := length_slice hlo
  have hbit := testBit_val (F := slice F lo 32) (j := j) (by omega)
  rw [hlen, bitAt_slice hj] at hbit
  rw [BitVec.getLsbD_ofNat, decide_eq_true (by omega), Bool.true_and]
  exact hbit

/-! ### The blocks of a frame (R357) -/

theorem t5577Blocks_getD_succ (w : Word) {F : List Bool} {k : Nat} (hk : k < F.length / 32) :
    (t5577Blocks w F).getD (k + 1) 0 = BitVec.ofNat 32 (val (slice F (32 * k) 32)) := by
  simp [t5577Blocks, hk]

theorem t5577Blocks_getD_past (w : Word) {F : List Bool} {k : Nat} (hk : F.length / 32 + 1 ≤ k) :
    (t5577Blocks w F).getD k 0 = 0 := by
  rw [List.getD_eq_default]
  rwa [length_t5577Blocks]

/-! ### The command -/

/-- WRITE_T5577 on an allocated slot of the variant (R126). -/
theorem exec_writeRow_of_allocated {v : Variant} {s : State} {n : BitVec 4} {S : Slot}
    (hS : s.allocated? n = some S) (hv : S.variant = v) :
    let blk := t5577Blocks (s.cfg.t5577Cfg v) (frameOf v s.cfg (firstBytes s.idIn (payload v)))
    exec (writeRow v n) s = .next ((s.setBlocks blk).setResp (resultResp (BitVec.ofNat 16 blk.length))) := by
  rw [exec_writeRow, writeT5577On, onRow_of_row hS hv]

/-- Settles O55: the blocks written are those of the frame, entry by entry. -/
theorem writeT5577ChunksTheFrame : Obligations.WriteT5577ChunksTheFrame := by
  unfold Obligations.WriteT5577ChunksTheFrame
  intro v s n S hS ha hv F count
  have hframe : F.length = frameLen v := framesHaveTheirLength v s.cfg _
  have hcount : (t5577Blocks (s.cfg.t5577Cfg v) F).length = count := by
    rw [length_t5577Blocks, hframe, Nat.add_comm]
  have hexec : exec (writeRow v n) s = .next ((s.setBlocks (t5577Blocks (s.cfg.t5577Cfg v) F)).setResp
      (resultResp (BitVec.ofNat 16 (t5577Blocks (s.cfg.t5577Cfg v) F).length))) :=
    exec_writeRow_of_allocated (allocated?_eq_some.mpr ⟨hS, ha⟩) hv
  rw [hcount, resultResp_ofNat] at hexec
  refine ⟨_, hexec, ?frame, padBlocks_getElem _ 0 (by decide), fun k hk => ?blocks⟩
  case frame => rw [State.setBlocks, hcount]; rfl
  case blocks =>
    rw [State.setResp_blocks, State.setBlocks_blocks, Fin.getElem_fin, padBlocks_getElem]
    refine ⟨fun hlt j hj => ?chunk, fun hpast => ?past⟩
    case chunk =>
      obtain ⟨i, hi⟩ := Nat.exists_eq_add_of_le' hk
      rw [hi, t5577Blocks_getD_succ _ (by omega), getLsbD_chunk (by omega) hj, Nat.add_sub_cancel]
    case past => exact t5577Blocks_getD_past _ (by rw [hframe]; omega)

end Sys2Proof.Machine
end

section
/-! PROOFS. The Goertzel powers (R161) and FSK_DECIDE (R162): the integer pairs are the real powers, and the
integer comparison of x + y·√5 + z·√2 with 0 is the real one. -/

namespace Sys2Proof.Machine

/-! ### The pairs as real numbers -/

/-- The real number a + b·c that a pair stands for. -/
noncomputable def Quad.eval (c : ℝ) (x : Quad) : ℝ := x.a + x.b * c

/-- The pair product is the real product when c is the root of c² = p·c + q. -/
theorem Quad.eval_mul {p q : Int} {c : ℝ} (hc : c ^ 2 = p * c + q) (x y : Quad) :
    (Quad.mul p q x y).eval c = x.eval c * y.eval c := by
  simp only [Quad.eval, Quad.mul]
  push_cast
  linear_combination (-(x.b * y.b : ℝ)) * hc

/-- One step of the recurrence of R161 over the reals. -/
noncomputable def goertzelRealStep (c : ℝ) (st : ℝ × ℝ) (x : Int) : ℝ × ℝ := (x + c * st.1 - st.2, st.1)

theorem goertzelRealStep_eval {p q : Int} {c : ℝ} (hc : c ^ 2 = p * c + q) (st : Quad × Quad) (x : Int) :
    goertzelRealStep c (st.1.eval c, st.2.eval c) x
      = ((goertzelStep p q st x).1.eval c, (goertzelStep p q st x).2.eval c) := by
  refine Prod.ext ?_ rfl
  simp only [goertzelRealStep, goertzelStep, Quad.eval]
  push_cast
  linear_combination (st.1.b : ℝ) * hc

/-- The samples run through the pairs give what they give over the reals. -/
theorem foldl_goertzelStep_eval {p q : Int} {c : ℝ} (hc : c ^ 2 = p * c + q) (x : List Int) :
    x.foldl (goertzelRealStep c) (0, 0)
      = Prod.map (Quad.eval c) (Quad.eval c) (x.foldl (goertzelStep p q) (⟨0, 0⟩, ⟨0, 0⟩)) := by
  have hzero : ((0, 0) : ℝ × ℝ) = Prod.map (Quad.eval c) (Quad.eval c) (⟨0, 0⟩, ⟨0, 0⟩) := by simp [Quad.eval]
  rw [hzero]
  exact List.foldl_hom _ fun st y => goertzelRealStep_eval hc st y

theorem goertzelReal_eq_eval {p q : Int} {w : ℝ} (hc : (2 * Real.cos w) ^ 2 = p * (2 * Real.cos w) + q)
    (x : List Int) : goertzelReal x w = (goertzel p q x).eval (2 * Real.cos w) := by
  unfold goertzelReal goertzel
  extract_lets c st pairs s11 s22 cs
  have hst : st = (pairs.1.eval c, pairs.2.eval c) := foldl_goertzelStep_eval hc x
  have hmul (y z : Quad) : (Quad.mul p q y z).eval c = y.eval c * z.eval c := Quad.eval_mul hc y z
  have hc1 : (⟨0, 1⟩ : Quad).eval c = c := by simp [Quad.eval]
  calc st.1 ^ 2 + st.2 ^ 2 - c * st.1 * st.2
      = pairs.1.eval c * pairs.1.eval c + pairs.2.eval c * pairs.2.eval c
        - (⟨0, 1⟩ : Quad).eval c * (pairs.1.eval c * pairs.2.eval c) := by rw [hst, hc1]; ring
    _ = s11.eval c + s22.eval c - cs.eval c := by simp only [s11, s22, cs, hmul]
    _ = Quad.eval c ⟨s11.a + s22.a - cs.a, s11.b + s22.b - cs.b⟩ := by
      simp only [Quad.eval]; push_cast; ring

/-- s1² + s2² − 2·cos w·s1·s2 is a sum of two squares: (s1 − cos w·s2)² and (1 − cos² w)·s2². -/
theorem goertzelReal_nonneg (x : List Int) (w : ℝ) : 0 ≤ goertzelReal x w := by
  unfold goertzelReal
  extract_lets c st
  have hcos : Real.cos w ^ 2 ≤ 1 := Real.cos_sq_le_one w
  calc 0 ≤ (st.1 - Real.cos w * st.2) ^ 2 + (1 - Real.cos w ^ 2) * st.2 ^ 2 :=
        add_nonneg (sq_nonneg _) (mul_nonneg (sub_nonneg.mpr hcos) (sq_nonneg _))
    _ = st.1 ^ 2 + st.2 ^ 2 - c * st.1 * st.2 := by ring

/-! ### The two tones (R9, R162) -/

theorem two_cos_fskWHi : 2 * Real.cos fskWHi = √2 := by
  have harg : fskWHi = Real.pi / 4 := by rw [fskWHi]; ring
  rw [harg, Real.cos_pi_div_four]
  ring

theorem two_cos_fskWLo : 2 * Real.cos fskWLo = (1 + √5) / 2 := by
  have harg : fskWLo = Real.pi / 5 := by rw [fskWLo]; ring
  rw [harg, Real.cos_pi_div_five]
  ring

theorem goertzelReal_fskWHi (x : List Int) : goertzelReal x fskWHi = (powerHi x).a + (powerHi x).b * √2 := by
  rw [goertzelReal_eq_eval (p := 0) (q := 2), two_cos_fskWHi, ← powerHi, Quad.eval]
  rw [two_cos_fskWHi, Real.sq_sqrt zero_le_two]
  simp

theorem goertzelReal_fskWLo (x : List Int) :
    goertzelReal x fskWLo = (powerLo x).a + (powerLo x).b * ((1 + √5) / 2) := by
  rw [goertzelReal_eq_eval (p := 1) (q := 1), two_cos_fskWLo, ← powerLo, Quad.eval]
  have hsqrt : √5 ^ 2 = (5 : ℝ) := Real.sq_sqrt (by norm_num)
  rw [two_cos_fskWLo]
  push_cast
  linear_combination hsqrt / 4

/-- Settles O34: the pairs obey the real recurrence, and the power is a sum of squares. -/
theorem goertzelPairsAreTheRealPowers : Obligations.GoertzelPairsAreTheRealPowers := fun x =>
  ⟨goertzelReal_fskWHi x, goertzelReal_fskWLo x, goertzelReal_nonneg x _, goertzelReal_nonneg x _⟩

/-! ### The sign of x + y·√5 + z·√2 -/

/-- The sum of two numbers of opposite signs is positive when the positive one has the larger square. -/
theorem add_pos_iff_sq_lt {a b : ℝ} (ha : 0 ≤ a) (hb : b ≤ 0) : 0 < a + b ↔ b ^ 2 < a ^ 2 := by
  rw [← neg_sq b, sq_lt_sq₀ (neg_nonneg.mpr hb) ha, neg_lt_iff_pos_add]

theorem sq_add_mul_sqrt_five (x y : ℝ) : (x + y * √5) ^ 2 = x * x + 5 * (y * y) + 2 * (x * y) * √5 := by
  have hsqrt : √(5 : ℝ) ^ 2 = 5 := Real.sq_sqrt (by norm_num)
  linear_combination y ^ 2 * hsqrt

theorem pos5_iff (x y : Int) : pos5 x y = true ↔ 0 < (x : ℝ) + y * √5 := by
  have hsqrt : 0 < √(5 : ℝ) := Real.sqrt_pos.mpr (by norm_num)
  have hsq : ((y : ℝ) * √5) ^ 2 = 5 * (y * y) := by rw [mul_pow, Real.sq_sqrt (by norm_num)]; ring
  unfold pos5
  split_ifs with hx
  case pos =>
    rw [Bool.or_eq_true, decide_eq_true_eq, decide_eq_true_eq]
    rcases le_or_gt 0 y with hy | hy
    · exact iff_of_true (.inl hy) (by positivity)
    · have hy' : (y : ℝ) * √5 ≤ 0 := mul_nonpos_of_nonpos_of_nonneg (by exact_mod_cast hy.le) hsqrt.le
      rw [add_pos_iff_sq_lt (by exact_mod_cast hx.le) hy', hsq, or_iff_right hy.not_ge, pow_two]
      exact_mod_cast Iff.rfl
  case neg =>
    rw [Bool.and_eq_true, decide_eq_true_eq, decide_eq_true_eq]
    have hx' : (x : ℝ) ≤ 0 := by exact_mod_cast not_lt.mp hx
    rcases lt_or_ge 0 y with hy | hy
    · have hy' : 0 ≤ (y : ℝ) * √5 := mul_nonneg (by exact_mod_cast hy.le) hsqrt.le
      rw [add_comm, add_pos_iff_sq_lt hy' hx', hsq, and_iff_right hy, pow_two]
      exact_mod_cast Iff.rfl
    · have hy' : (y : ℝ) * √5 ≤ 0 := mul_nonpos_of_nonpos_of_nonneg (by exact_mod_cast hy) hsqrt.le
      exact iff_of_false (fun h => hy.not_gt h.1) (by linarith)

theorem pos5_neg_iff (x y : Int) : pos5 (-x) (-y) = true ↔ (x : ℝ) + y * √5 < 0 := by
  rw [pos5_iff]
  push_cast
  constructor <;> intro h <;> linarith

/-- Where x + y·√5 and z·√2 have opposite signs their squares are compared, and the difference of the squares is
again a number of the form that `pos5_iff` speaks of. -/
theorem pos52_iff (x y z : Int) : pos52 x y z = true ↔ 0 < (x : ℝ) + y * √5 + z * √2 := by
  have hsqrt : 0 < √(2 : ℝ) := Real.sqrt_pos.mpr (by norm_num)
  have hzsq : ((z : ℝ) * √2) ^ 2 = 2 * (z * z) := by rw [mul_pow, Real.sq_sqrt (by norm_num)]; ring
  unfold pos52
  split_ifs with hz hxy
  case pos =>
    have hz' : 0 ≤ (z : ℝ) * √2 := mul_nonneg (by exact_mod_cast hz) hsqrt.le
    rw [add_comm ((x : ℝ) + y * √5), add_pos_iff_sq_lt hz' ((pos5_neg_iff x y).mp hxy).le, pos5_iff,
      sq_add_mul_sqrt_five, hzsq]
    push_cast
    constructor <;> intro h <;> linarith
  case neg =>
    have hxy' : 0 ≤ (x : ℝ) + y * √5 := not_lt.mp (mt (pos5_neg_iff x y).mpr hxy)
    have hz' : 0 < (z : ℝ) * √2 ↔ 0 < z := by rw [mul_pos_iff_of_pos_right hsqrt, Int.cast_pos]
    rw [Bool.or_eq_true, decide_eq_true_eq, pos5_iff, ← hz']
    rcases hxy'.lt_or_eq with hpos | hzero
    · have hznonneg : 0 ≤ (z : ℝ) * √2 := mul_nonneg (by exact_mod_cast hz) hsqrt.le
      exact iff_of_true (.inl hpos) (by linarith)
    · rw [← hzero, zero_add, or_iff_right (lt_irrefl 0)]
  case neg =>
    have hz' : (z : ℝ) * √2 < 0 := mul_neg_of_neg_of_pos (by exact_mod_cast not_le.mp hz) hsqrt
    rw [Bool.and_eq_true, pos5_iff, pos5_iff]
    rcases lt_or_ge 0 ((x : ℝ) + y * √5) with hxy | hxy
    · rw [and_iff_right hxy, add_pos_iff_sq_lt hxy.le hz'.le, sq_add_mul_sqrt_five, hzsq]
      push_cast
      constructor <;> intro h <;> linarith
    · exact iff_of_false (fun h => hxy.not_gt h.1) (by linarith)

/-! ### FSK_DECIDE (R162) -/

theorem loExceeds_iff (eps : Nat) (x : List Int) :
    loExceeds eps x = true ↔ goertzelReal x fskWHi + eps < goertzelReal x fskWLo := by
  rw [loExceeds, pos52_iff, goertzelReal_fskWHi, goertzelReal_fskWLo]
  push_cast
  constructor <;> intro h <;> linarith

theorem hiExceeds_iff (eps : Nat) (x : List Int) :
    hiExceeds eps x = true ↔ goertzelReal x fskWLo + eps < goertzelReal x fskWHi := by
  rw [hiExceeds, pos52_iff, goertzelReal_fskWHi, goertzelReal_fskWLo]
  push_cast
  constructor <;> intro h <;> linarith

theorem fskDecide_of_loExceeds {eps : Nat} {x : List Int} (h : loExceeds eps x = true) : fskDecide eps x = true := by
  simp [fskDecide, h]

theorem fskDecide_of_hiExceeds {eps : Nat} {x : List Int} (hlo : ¬ loExceeds eps x = true)
    (hhi : hiExceeds eps x = true) : fskDecide eps x = false := by
  simp [fskDecide, hlo, hhi]

theorem fskDecide_exact (x : List Int) : fskDecide 0 x = loExceeds 0 x := by
  cases h : loExceeds 0 x <;> simp [fskDecide, h]

/-- Settles O33: the integer comparisons of FSK_DECIDE are those of the real powers. -/
theorem fskDecideComparesTheRealPowers : Obligations.FskDecideComparesTheRealPowers := by
  unfold Obligations.FskDecideComparesTheRealPowers
  intro eps x
  have heps : (0 : ℝ) ≤ eps := eps.cast_nonneg
  refine ⟨fun h => ?low, fun h => ?high, fun h => ?tie⟩
  case low => exact fskDecide_of_loExceeds ((loExceeds_iff eps x).mpr h)
  case high =>
    have hlo : ¬ loExceeds eps x = true := by rw [loExceeds_iff]; linarith
    exact fskDecide_of_hiExceeds hlo ((hiExceeds_iff eps x).mpr h)
  case tie =>
    rw [fskDecide_exact, Bool.eq_false_iff, Ne, loExceeds_iff, h]
    simp

end Sys2Proof.Machine
end

section
/-! PROOFS. The windows of FSK_STEP (R160) and PSK_STEP (R170, R171): what a run of samples leaves in the window,
and PREV_SUM as the exact sum. -/

namespace Sys2Proof.Machine

/-- The samples up to the one just written. -/
theorem take_succ_set {α : Type} {l : List α} {k : Nat} (hk : k < l.length) (x : α) :
    (l.set k x).take (k + 1) = l.take k ++ [x] := by
  rw [List.take_succ_eq_append_getElem (by simpa using hk), List.take_set_of_le le_rfl, List.getElem_set_self]

/-! ### FSK windows (R160) -/

section Fsk
variable {n : Nat} (eps : Nat) {d : FskDemod} {x : BitVec 16} {xs : List (BitVec 16)}

/-- A sample inside the window is stored and emits nothing: the run goes on with one sample more. -/
theorem fskRun_cons_of_inside (hn : n ≤ 65536) (h : d.cnt.toNat + 1 < n) :
    ∃ e : FskDemod, e.win = d.win.set d.cnt.toNat x ∧ e.cnt.toNat = d.cnt.toNat + 1
      ∧ fskRun n eps (x :: xs) d = fskRun n eps xs e := by
  refine ⟨⟨d.win.set d.cnt.toNat x, BitVec.ofNat 16 (d.cnt.toNat + 1)⟩, rfl, ?_, ?_⟩
  · exact Nat.mod_eq_of_lt (by omega)
  · rw [fskRun, fskStep_inside h]; rfl

/-- Samples that do not fill the window emit no bit. -/
theorem fskRun_inside (hn : n ≤ 65536) (h : d.cnt.toNat + xs.length < n) :
    (fskRun n eps xs d).2 = [] ∧ (fskRun n eps xs d).1.cnt.toNat = d.cnt.toNat + xs.length := by
  induction xs generalizing d with
  | nil => exact ⟨rfl, rfl⟩
  | cons x xs ih =>
    rw [List.length_cons] at h
    obtain ⟨e, -, hcnt, hrun⟩ := fskRun_cons_of_inside eps (x := x) (xs := xs) (d := d) hn (by omega)
    obtain ⟨hbits, hcount⟩ := ih (d := e) (by omega)
    rw [hrun]
    exact ⟨hbits, by rw [hcount, hcnt, List.length_cons]; omega⟩

/-- The samples that fill the window emit one bit, decided on those held before and the new ones. -/
theorem fskRun_to_boundary (hn : n ≤ 65536) (hwin : d.win.length = n) (h : d.cnt.toNat + xs.length = n)
    (hxs : xs ≠ []) :
    fskRun n eps xs d = (⟨d.win.take d.cnt.toNat ++ xs, 0⟩,
      [fskDecide eps ((d.win.take d.cnt.toNat ++ xs).map BitVec.toInt)]) := by
  induction xs generalizing d with
  | nil => exact absurd rfl hxs
  | cons x xs ih =>
    rw [List.length_cons] at h
    have hset := take_succ_set (l := d.win) (k := d.cnt.toNat) (by omega) x
    cases xs with
    | nil =>
      have hfull : d.cnt.toNat + 1 = n := h
      have htake : (d.win.set d.cnt.toNat x).take n = d.win.set d.cnt.toNat x :=
        List.take_of_length_le (by rw [List.length_set, hwin])
      rw [hfull, htake] at hset
      rw [fskRun, fskStep_full hfull.ge, htake, hset]
      rfl
    | cons y ys =>
      rw [List.length_cons] at h
      obtain ⟨e, hewin, hcnt, hrun⟩ := fskRun_cons_of_inside eps (x := x) (xs := y :: ys) (d := d) hn (by omega)
      have hkept : e.win.take e.cnt.toNat ++ y :: ys = d.win.take d.cnt.toNat ++ x :: y :: ys := by
        rw [hewin, hcnt, hset, List.append_assoc, List.singleton_append]
      rw [hrun, ih (d := e) (by rw [hewin, List.length_set, hwin]) (by rw [List.length_cons]; omega)
        (List.cons_ne_nil y ys), hkept]

end Fsk

/-- Settles O31: the run up to a window boundary, from the boundary before it. -/
theorem fskEmitsOneBitPerWindow : Obligations.FskEmitsOneBitPerWindow := by
  unfold Obligations.FskEmitsOneBitPerWindow
  intro n eps d xs hpos hn hwin hcnt
  have hcnt0 : d.cnt.toNat = 0 := by rw [hcnt]; rfl
  refine ⟨fun hlen => ?full, fun hlen => ?part⟩
  case full =>
    have hxs : xs ≠ [] := List.ne_nil_of_length_pos (by omega)
    have hrun := fskRun_to_boundary eps hn hwin (by omega) hxs
    rwa [hcnt0, List.take_zero, List.nil_append] at hrun
  case part =>
    have hrun := fskRun_inside eps hn (d := d) (xs := xs) (by omega)
    rwa [hcnt0, Nat.zero_add] at hrun

/-! ### PSK windows (R170, R171) -/

theorem windowSum_bounds (w : List (BitVec 16)) :
    (w.length : Int) * -2 ^ 15 ≤ windowSum w ∧ windowSum w ≤ w.length * 2 ^ 15 := by
  have hlow := List.card_nsmul_le_sum (w.map sampleOf) (-2 ^ 15)
    (List.forall_mem_map.mpr fun x _ => x.le_toInt)
  have hhigh := List.sum_le_card_nsmul (w.map sampleOf) (2 ^ 15)
    (List.forall_mem_map.mpr fun x _ => x.toInt_lt.le)
  rw [List.length_map, nsmul_eq_mul] at hlow hhigh
  exact ⟨hlow, hhigh⟩

/-- The sum of at most 65534 samples fits PREV_SUM's signed 32 bits (R45). -/
theorem toInt_ofInt_windowSum {w : List (BitVec 16)} (hw : w.length ≤ 65534) :
    (BitVec.ofInt 32 (windowSum w)).toInt = windowSum w := by
  have h := windowSum_bounds w
  exact BitVec.toInt_ofInt_eq_self (by decide) (by omega) (by omega)

/-- After the slide both halves of the window hold the newer samples (R170). -/
theorem slideWindow_halves {n : Nat} {w : List (BitVec 16)} (heven : n % 2 = 0) (hw : w.length = n) :
    (slideWindow n w).take (n / 2) = w.drop (n / 2) ∧ (slideWindow n w).drop (n / 2) = w.drop (n / 2) := by
  have hlen : (w.drop (n / 2)).length = n / 2 := by rw [List.length_drop, hw]; omega
  rw [slideWindow, List.take_of_length_le hlen.le]
  exact ⟨List.take_left' hlen, List.drop_left' hlen⟩

/-- Settles O32: by whether the sample fills the window; the sum is PREV_SUM's exactly. -/
theorem pskWindowSlidesByHalf : Obligations.PskWindowSlidesByHalf := by
  unfold Obligations.PskWindowSlidesByHalf
  intro n d x heven hlow hhigh hwin hcnt r w
  have hw : w.length = n := by rw [List.length_set, hwin]
  refine ⟨fun hlt => ?inside, fun hfull => ?full⟩
  case inside =>
    have hr : r = _ := pskStep_inside hlt
    rw [hr]
    exact ⟨rfl, rfl, Nat.mod_eq_of_lt (by omega), rfl, rfl⟩
  case full =>
    have hr : r = _ := pskStep_full hfull.ge
    have htake : w.take n = w := List.take_of_length_le hw.le
    obtain ⟨holder, hnewer⟩ := slideWindow_halves heven hw
    rw [htake] at hr
    rw [hr]
    exact ⟨holder, hnewer, Nat.mod_eq_of_lt (by omega), rfl, toInt_ofInt_windowSum (hw.trans_le hhigh), rfl⟩

end Sys2Proof.Machine
end

section
/-! PROOFS. Differential biphase (R150, R151): the windows of the four classes and the transition table. -/

namespace Sys2Proof.Machine

/-! ### The window of each class (R150, R9) -/

theorem inWindow_eq_true (centre i : Nat) :
    inWindow centre i = true ↔ centre - bpJitter ≤ i ∧ i < centre + bpJitter := by
  rw [inWindow, Bool.and_eq_true, decide_eq_true_eq, decide_eq_true_eq]

theorem inWindow_half (i : Nat) : inWindow bpTHalf i = true ↔ 8 ≤ i ∧ i ≤ 23 := by
  rw [inWindow_eq_true, bpTHalf, bpJitter]; omega

theorem inWindow_full (i : Nat) : inWindow bpTFull i = true ↔ 24 ≤ i ∧ i ≤ 39 := by
  rw [inWindow_eq_true, bpTFull, bpJitter]; omega

theorem inWindow_oneHalf (i : Nat) : inWindow bpTOneHalf i = true ↔ 40 ≤ i ∧ i ≤ 55 := by
  rw [inWindow_eq_true, bpTOneHalf, bpJitter]; omega

/-- Settles O25: the windows do not meet, so the order of the tests decides nothing. -/
theorem biphaseWindowsTile : Obligations.BiphaseWindowsTile := by
  unfold Obligations.BiphaseWindowsTile
  intro i
  unfold bpClassify
  simp only [inWindow_half, inWindow_full, inWindow_oneHalf]
  split_ifs with hhalf hfull honeHalf <;> simp <;> omega

/-! ### The rows of the transition table (R151) -/

section Rows
variable {i : Nat} (sync : Bool)

theorem bpStep_of_invalid (h : bpClassify i = .invalid) : bpStep sync i = ⟨none, true, true⟩ := by
  simp [bpStep, h]

theorem bpStep_of_half (h : bpClassify i = .half) :
    bpStep sync i = ⟨if sync then some true else none, false, true⟩ := by
  cases sync <;> simp [bpStep, h]

theorem bpStep_of_full (h : bpClassify i = .full) : bpStep sync i = ⟨some false, false, true⟩ := by
  cases sync <;> simp [bpStep, h]

theorem bpStep_of_oneHalf (h : bpClassify i = .oneHalf) :
    bpStep sync i = if sync then ⟨some true, false, false⟩ else ⟨none, true, true⟩ := by
  cases sync <;> simp [bpStep, h]

end Rows

/-- Settles O26, a row of the table for each class. -/
theorem biphaseTransitionTable : Obligations.BiphaseTransitionTable := by
  unfold Obligations.BiphaseTransitionTable
  intro sync i
  refine ⟨bpStep_of_invalid sync, fun h => ?half, bpStep_of_full sync, fun h => ?oneHalf, fun c p f => ?start⟩
  case half => exact ⟨bpStep_of_half true h, bpStep_of_half false h⟩
  case oneHalf => exact ⟨bpStep_of_oneHalf true h, bpStep_of_oneHalf false h⟩
  case start => exact ⟨rfl, bpStep_of_half false ((biphaseWindowsTile 16).1.mpr (by omega))⟩

end Sys2Proof.Machine
end

section
/-! PROOFS. The generators (42_checksums.md): CRC16 (R190) and CRC8MAXIM (R191) with their residues, the formulas of
XOR8, SUMCOMP8 and ODDPAR7 (R192 to R194), and what GEN answers of them (R200). -/

namespace Sys2Proof.Machine

/-! ### CRC16 (R190) -/

theorem crc16Bit_of_msb_false {c : BitVec 16} (h : c.getLsbD 15 = false) : crc16Bit c = c <<< 1 := by
  rw [crc16Bit, h, if_neg Bool.false_ne_true]

/-- The polynomial comes in only when a 1 leaves at the top: a byte that stands in the low half is just shifted. -/
theorem iterate_crc16Bit_zeroExtend (b : Byte) {k : Nat} (hk : k ≤ 8) :
    crc16Bit^[k] (b.zeroExtend 16) = b.zeroExtend 16 <<< k := by
  induction k with
  | zero => simp
  | succ k ih =>
    have htop : (b.zeroExtend 16 <<< k).getLsbD 15 = false := by
      have hpast : b.getLsbD (15 - k) = false := BitVec.getLsbD_of_ge _ _ (by omega)
      simp [hpast]
    rw [Function.iterate_succ_apply', ih (by omega), crc16Bit_of_msb_false htop, BitVec.shiftLeft_add]

theorem crc16Byte_of_eq {c : BitVec 16} {b x : Byte} (h : c ^^^ b.zeroExtend 16 <<< 8 = x.zeroExtend 16) :
    crc16Byte c b = x.zeroExtend 16 <<< 8 := by
  rw [crc16Byte, h, iterate_crc16Bit_zeroExtend x le_rfl]

theorem xor_highByte (c : BitVec 16) :
    c ^^^ (c.extractLsb' 8 8).zeroExtend 16 <<< 8 = (c.extractLsb' 0 8).zeroExtend 16 := by
  ext i hi
  rcases Nat.lt_or_ge i 8 with hlow | hhigh
  · simp [hlow, hi]
  · have hsub : i - 8 < 8 := by omega
    simp [hhigh, hsub, hi]

/-- A CRC that takes its own two bytes in ends at 0: the first leaves the low byte, at the top, which the second
cancels. -/
theorem crc16Byte_own_bytes (c : BitVec 16) :
    crc16Byte (crc16Byte c (c.extractLsb' 8 8)) (c.extractLsb' 0 8) = 0 := by
  have hcancel (x : BitVec 16) : x ^^^ x = (0 : Byte).zeroExtend 16 := by simp
  rw [crc16Byte_of_eq (xor_highByte c), crc16Byte_of_eq (hcancel _)]
  rfl

theorem crc16_append (d e : List Byte) : crc16 (d ++ e) = e.foldl crc16Byte (crc16 d) := List.foldl_append

/-- Settles O57. -/
theorem crc16OfAMessageAndItsCrcIsZero : Obligations.Crc16OfAMessageAndItsCrcIsZero := by
  unfold Obligations.Crc16OfAMessageAndItsCrcIsZero
  refine ⟨fun d => ?residue, rfl, ?check⟩
  case residue =>
    rw [crc16_append]
    exact crc16Byte_own_bytes (crc16 d)
  case check => simp [crc16, crc16Byte, crc16Bit]

/-! ### CRC8MAXIM (R191) -/

/-- A shift is linear: the polynomial comes in for `a ^^^ b` when it does for exactly one of the two. -/
theorem crc8Bit_xor (a b : Byte) : crc8Bit (a ^^^ b) = crc8Bit a ^^^ crc8Bit b := by
  have hboth : a >>> 1 ^^^ 0x8C#8 ^^^ (b >>> 1 ^^^ 0x8C#8) = a >>> 1 ^^^ b >>> 1 := by
    calc a >>> 1 ^^^ 0x8C#8 ^^^ (b >>> 1 ^^^ 0x8C#8) = a >>> 1 ^^^ b >>> 1 ^^^ (0x8C#8 ^^^ 0x8C#8) := by ac_rfl
      _ = a >>> 1 ^^^ b >>> 1 := by rw [BitVec.xor_self, BitVec.xor_zero]
  unfold crc8Bit
  rw [BitVec.getLsbD_xor, BitVec.ushiftRight_xor_distrib]
  cases a.getLsbD 0 <;> cases b.getLsbD 0 <;> simp [hboth] <;> ac_rfl

theorem iterate_crc8Bit_xor (k : Nat) (a b : Byte) : crc8Bit^[k] (a ^^^ b) = crc8Bit^[k] a ^^^ crc8Bit^[k] b :=
  (show Function.Semiconj₂ _ (· ^^^ ·) (· ^^^ ·) from crc8Bit_xor).iterate k a b

theorem iterate_crc8Bit_zero : crc8Bit^[8] 0 = 0 := by decide

theorem crc8Byte_xor (c c' b b' : Byte) : crc8Byte (c ^^^ c') (b ^^^ b') = crc8Byte c b ^^^ crc8Byte c' b' := by
  have hswap : c ^^^ c' ^^^ (b ^^^ b') = c ^^^ b ^^^ (c' ^^^ b') := by ac_rfl
  rw [crc8Byte, hswap, iterate_crc8Bit_xor, crc8Byte, crc8Byte]

theorem crc8Byte_self (c : Byte) : crc8Byte c c = 0 := by
  rw [crc8Byte, BitVec.xor_self]
  exact iterate_crc8Bit_zero

theorem foldl_crc8Byte_zipWith_xor {d e : List Byte} (h : d.length = e.length) (c c' : Byte) :
    (List.zipWith (· ^^^ ·) d e).foldl crc8Byte (c ^^^ c') = d.foldl crc8Byte c ^^^ e.foldl crc8Byte c' := by
  induction d generalizing e c c' with
  | nil => rw [List.eq_nil_of_length_eq_zero h.symm]; rfl
  | cons x xs ih =>
    obtain ⟨y, ys, rfl⟩ := List.exists_cons_of_length_eq_add_one h.symm
    rw [List.zipWith_cons_cons, List.foldl_cons, crc8Byte_xor, ih (Nat.succ.inj h), List.foldl_cons, List.foldl_cons]

theorem crc8Maxim_append (d e : List Byte) : crc8Maxim (d ++ e) = e.foldl crc8Byte (crc8Maxim d) := List.foldl_append

theorem crc8Maxim_replicate_zero (n : Nat) : crc8Maxim (List.replicate n 0) = 0 := by
  induction n with
  | zero => rfl
  | succ n ih => rw [List.replicate_succ', crc8Maxim_append, ih]; exact crc8Byte_self 0

/-- Settles O58. -/
theorem crc8MaximIsLinear : Obligations.Crc8MaximIsLinear := by
  unfold Obligations.Crc8MaximIsLinear
  refine ⟨fun n d => ?leadingZeros, fun d => ?residue, fun d e h => ?linear, ?check⟩
  case leadingZeros => rw [crc8Maxim_append, crc8Maxim_replicate_zero, crc8Maxim]
  case residue => rw [crc8Maxim_append]; exact crc8Byte_self _
  case linear => exact foldl_crc8Byte_zipWith_xor h 0 0
  case check => simp [crc8Maxim, crc8Byte, crc8Bit]

/-! ### XOR8 (R192) -/

theorem xor8_cons (b : Byte) (d : List Byte) : xor8 (b :: d) = b ^^^ xor8 d := by
  rw [xor8, xor8, List.foldl_eq_foldr, List.foldl_eq_foldr, List.foldr_cons]

theorem xor8_append (d e : List Byte) : xor8 (d ++ e) = xor8 d ^^^ xor8 e := by
  induction d with
  | nil => exact BitVec.zero_xor.symm
  | cons b d ih => rw [List.cons_append, xor8_cons, ih, xor8_cons, BitVec.xor_assoc]

/-! ### SUMCOMP8 (R193) -/

theorem toNat_foldl_add {w : Nat} (d : List (BitVec w)) (a : BitVec w) :
    (d.foldl (· + ·) a).toNat = (a.toNat + (d.map BitVec.toNat).sum) % 2 ^ w := by
  induction d generalizing a with
  | nil => simp [Nat.mod_eq_of_lt a.isLt]
  | cons b d ih => simp [ih, Nat.add_assoc]

theorem toNat_sumComp8 (d : List Byte) : (sumComp8 d).toNat = (0xFF - (d.map BitVec.toNat).sum % 256) % 256 := by
  rw [sumComp8, BitVec.toNat_sub, toNat_foldl_add]
  simp only [BitVec.reduceToNat]
  omega

/-! ### ODDPAR7 (R194) -/

/-- A chain of exclusive ors is the parity of what it starts at and of the ones it takes in. -/
theorem toNat_foldl_xor {α : Type} (f : α → Bool) (l : List α) (p : Bool) :
    (l.foldl (fun q k => q ^^ f k) p).toNat = (p.toNat + l.countP f) % 2 := by
  induction l generalizing p with
  | nil => cases p <;> rfl
  | cons k l ih =>
    rw [List.foldl_cons, ih, List.countP_cons]
    cases p <;> cases f k <;> simp <;> omega

theorem toNat_oddPar7 (c : Byte) :
    (oddPar7 c).toNat = (1 + (List.range 7).countP fun k => c.getLsbD k) % 2 := toNat_foldl_xor _ _ true

theorem oddPar7_flip_bit7 (c : Byte) : oddPar7 (c ^^^ 0x80) = oddPar7 c := by
  have hlow : ∀ k ∈ List.range 7, (0x80 : Byte).getLsbD k = false := by decide
  refine List.foldl_ext _ _ _ fun p k hk => ?_
  rw [BitVec.getLsbD_xor, hlow k hk, Bool.xor_false]

/-- Settles O59. -/
theorem byteChecksumsFollowTheirFormulas : Obligations.ByteChecksumsFollowTheirFormulas := by
  unfold Obligations.ByteChecksumsFollowTheirFormulas
  refine ⟨⟨rfl, xor8_cons⟩, fun d e => ⟨xor8_append d e, ?twice⟩, toNat_sumComp8,
    fun c => ⟨?odd, oddPar7_flip_bit7 c⟩⟩
  case twice => rw [xor8_append, BitVec.xor_self]; rfl
  case odd => rw [toNat_oddPar7]; omega

/-! ### GEN (R200) -/

/-- RESULT stands in bits 31:16 of RESP, zeros elsewhere (R97). -/
theorem resultResp_eq_append (r : BitVec 16) : resultResp r = r ++ 0#16 := by
  refine BitVec.eq_of_toNat_eq ?_
  rw [resultResp, toNat_respWord_ok, BitVec.toNat_append]
  simp [Nat.shiftLeft_eq, Nat.mul_comm]

theorem resultResp_zeroExtend (b : Byte) : resultResp (b.zeroExtend 16) = 0#8 ++ b ++ 0#16 := by
  have hbyte : b.zeroExtend 16 = 0#8 ++ b := BitVec.setWidth_eq_append (by omega)
  rw [resultResp_eq_append, hbyte]

section Gen
variable {legal : Nat → Bool} {len : BitVec 8} (s : State)

theorem genOn_of_legal (g : List Byte → BitVec 16) (h : legal len.toNat = true) :
    genOn legal g len s = .next { s with resp := g (firstBytes s.idIn len.toNat) ++ 0#16 } := by
  rw [genOn, if_pos h, resultResp_eq_append]
  rfl

theorem genOn_byte_of_legal (g : List Byte → Byte) (h : legal len.toNat = true) :
    genOn legal (fun d => (g d).zeroExtend 16) len s
      = .next { s with resp := 0#8 ++ g (firstBytes s.idIn len.toNat) ++ 0#16 } := by
  rw [genOn, if_pos h, resultResp_zeroExtend]
  rfl

theorem genOn_of_not_legal (g : List Byte → BitVec 16) (h : legal len.toNat = false) :
    genOn legal g len s = .next { s with resp := 8 } :=
  if_neg (ne_true_of_eq_false h)

end Gen

theorem resultResp_oddPar7 (c : Byte) : resultResp ((BitVec.ofBool (oddPar7 c)).zeroExtend 16)
    = if ((List.range 7).countP fun k => c.getLsbD k) % 2 = 0 then 0x10000 else 0 := by
  have hpar := toNat_oddPar7 c
  cases hodd : oddPar7 c with
  | false => rw [hodd, Bool.toNat_false] at hpar; rw [if_neg (by omega)]; rfl
  | true => rw [hodd, Bool.toNat_true] at hpar; rw [if_pos (by omega)]; rfl

/-- ID_IN[0], the one byte that GEN.ODDPAR7 reads. -/
theorem byteAt_firstBytes_one (buf : IdBytes) : byteAt (firstBytes buf 1) 0 = buf[0] := by
  simp [byteAt, firstBytes]

section Rows
variable (len : BitVec 8) (s : State)

theorem exec_genCrc16 : exec (.genCrc16 len) s = genOn lenUpTo28 crc16 len s := by rw [exec, execGenCrc16]

theorem exec_genCrc8Maxim :
    exec (.genCrc8Maxim len) s = genOn lenUpTo28 (fun d => (crc8Maxim d).zeroExtend 16) len s := by
  rw [exec, execGenCrc8Maxim]

theorem exec_genXor8 : exec (.genXor8 len) s = genOn lenUpTo28 (fun d => (xor8 d).zeroExtend 16) len s := by
  rw [exec, execGenXor8]

theorem exec_genSumComp8 :
    exec (.genSumComp8 len) s = genOn lenUpTo28 (fun d => (sumComp8 d).zeroExtend 16) len s := by
  rw [exec, execGenSumComp8]

theorem exec_genOddPar7 : exec (.genOddPar7 len) s
    = genOn lenOne (fun d => (BitVec.ofBool (oddPar7 (byteAt d 0))).zeroExtend 16) len s := by
  rw [exec, execGenOddPar7]

end Rows

/-- Settles O56. -/
theorem genRunsTheGenerator : Obligations.GenRunsTheGenerator := by
  unfold Obligations.GenRunsTheGenerator
  intro s len d
  simp only [List.forall_mem_cons, List.not_mem_nil, false_imp_iff, implies_true, and_true, exec_genCrc16,
    exec_genCrc8Maxim, exec_genXor8, exec_genSumComp8, exec_genOddPar7]
  refine ⟨fun h => ?run, fun h => ?tooLong, fun h => ?parity, fun h => ?notOne⟩
  case run =>
    have hlegal : lenUpTo28 len.toNat = true := decide_eq_true h
    exact ⟨genOn_of_legal s crc16 hlegal, genOn_byte_of_legal s crc8Maxim hlegal,
      genOn_byte_of_legal s xor8 hlegal, genOn_byte_of_legal s sumComp8 hlegal⟩
  case tooLong =>
    have hbad : lenUpTo28 len.toNat = false := decide_eq_false (by omega)
    exact ⟨genOn_of_not_legal s _ hbad, genOn_of_not_legal s _ hbad, genOn_of_not_legal s _ hbad,
      genOn_of_not_legal s _ hbad⟩
  case parity =>
    have hlegal : lenOne len.toNat = true := decide_eq_true (congrArg BitVec.toNat h)
    rw [genOn, if_pos hlegal, h, ← resultResp_oddPar7, ← byteAt_firstBytes_one]
    rfl
  case notOne =>
    have hbad : lenOne len.toNat = false := decide_eq_false fun hone => h (BitVec.eq_of_toNat_eq hone)
    exact genOn_of_not_legal s _ hbad

end Sys2Proof.Machine
end

section
/-! SUPPORT. The numbers of bit and byte sequences (R12 to R14): `val` and `bits_of` are inverse, a slice of a sequence
is a quotient of its number, and the bytes of a big-endian number read back. -/

namespace Sys2Proof.Machine

/-! ### Positions and slices -/

theorem bitAt_cons_succ (b : Bool) (F : List Bool) (t : Nat) : bitAt (b :: F) (t + 1) = bitAt F t := by simp [bitAt]

theorem map_bitAt_range (F : List Bool) : (List.range F.length).map (bitAt F) = F :=
  List.ext_getElem (by simp) fun t _ _ => by simp [bitAt, *]

theorem slice_of_length {F : List Bool} {n : Nat} (h : F.length = n) : slice F 0 n = F := by simp [slice, ← h]

theorem slice_cons_succ (b : Bool) (F : List Bool) (lo n : Nat) : slice (b :: F) (lo + 1) n = slice F lo n := rfl

theorem slice_append_left {F : List Bool} (G : List Bool) {lo n : Nat} (h : lo + n ≤ F.length) :
    slice (F ++ G) lo n = slice F lo n := by
  rw [slice, List.drop_append_of_le_length (by omega), List.take_append_of_le_length (by simp; omega), slice]

theorem slice_append_right {F : List Bool} (G : List Bool) {lo n : Nat} (h : F.length ≤ lo) :
    slice (F ++ G) lo n = slice G (lo - F.length) n := by
  rw [slice, List.drop_append, List.drop_eq_nil_of_le h, List.nil_append, slice]

/-- Neighbouring slices join. -/
theorem slice_append_slice (F : List Bool) (lo m n : Nat) :
    slice F lo m ++ slice F (lo + m) n = slice F lo (m + n) := by
  rw [slice, slice, slice, List.take_add, List.drop_drop]

/-! ### Numbers of bit sequences (R12) -/

theorem val_append (F G : List Bool) : val (F ++ G) = val F * 2 ^ G.length + val G := by
  induction G using List.reverseRecOn with
  | nil => simp
  | append_singleton G b ih =>
    rw [← List.append_assoc, val_append_singleton, val_append_singleton, ih, List.length_append, List.length_singleton]
    ring

theorem val_lt (F : List Bool) : val F < 2 ^ F.length := by
  induction F using List.reverseRecOn with
  | nil => simp
  | append_singleton F b ih =>
    have hb := b.toNat_le
    rw [val_append_singleton, List.length_append, List.length_singleton, pow_succ]
    omega

/-- `bits_of` undoes `val`. -/
theorem bitsOf_val (F : List Bool) : bitsOf F.length (val F) = F := by
  conv_rhs => rw [← map_bitAt_range F]
  exact List.map_congr_left fun t ht => testBit_val (List.mem_range.mp ht)

/-- `val` undoes `bits_of`, modulo 2^n. -/
theorem val_bitsOf (n x : Nat) : val (bitsOf n x) = x % 2 ^ n := by
  refine Nat.eq_of_testBit_eq fun j => ?_
  rw [Nat.testBit_mod_two_pow]
  by_cases hj : j < n
  · have hbit := testBit_val (F := bitsOf n x) (j := n - 1 - j) (by rw [length_bitsOf]; omega)
    rw [length_bitsOf, bitAt_bitsOf x (by omega), show n - 1 - (n - 1 - j) = j by omega] at hbit
    rw [hbit, decide_eq_true hj, Bool.true_and]
  · have hlt : val (bitsOf n x) < 2 ^ j :=
      (val_lt _).trans_le (Nat.pow_le_pow_right (by decide) (by rw [length_bitsOf]; omega))
    rw [Nat.testBit_lt_two_pow hlt, decide_eq_false hj, Bool.false_and]

/-- The bits of a slice are a quotient of the sequence's number. -/
theorem val_slice {F : List Bool} {lo n : Nat} (h : lo + n ≤ F.length) :
    val (slice F lo n) = val F / 2 ^ (F.length - lo - n) % 2 ^ n := by
  have hsplit : F = F.take lo ++ slice F lo n ++ F.drop (lo + n) := by
    rw [slice, ← List.drop_drop, List.append_assoc, List.take_append_drop, List.take_append_drop]
  have hlen : (F.drop (lo + n)).length = F.length - lo - n := by rw [List.length_drop]; omega
  have hlow := val_lt (F.drop (lo + n))
  have hmid := val_lt (slice F lo n)
  rw [hlen] at hlow
  rw [length_slice h] at hmid
  have hval : val F = 2 ^ (F.length - lo - n) * (2 ^ n * val (F.take lo) + val (slice F lo n))
      + val (F.drop (lo + n)) := by
    conv_lhs => rw [hsplit, val_append, val_append, hlen, length_slice h]
    ring
  rw [hval, Nat.mul_add_div (by positivity), Nat.div_eq_of_lt hlow, Nat.add_zero, Nat.mul_add_mod,
    Nat.mod_eq_of_lt hmid]

/-! ### Fields of a word -/

/-- Flipping a bit changes exactly the fields it stands in. -/
theorem extractLsb'_xor_twoPow_eq_iff {w t : Nat} (x : BitVec w) (lo len : Nat) (ht : t < w) :
    (x ^^^ BitVec.twoPow w t).extractLsb' lo len = x.extractLsb' lo len ↔ ¬ (lo ≤ t ∧ t < lo + len) := by
  constructor
  · rintro heq ⟨hlow, hhigh⟩
    have hbit := congrArg (·.getLsbD (t - lo)) heq
    simp [show lo + (t - lo) = t by omega, show t - lo < len by omega, ht] at hbit
  · intro hout
    refine BitVec.eq_of_getLsbD_eq fun j hj => ?_
    simp [hj, show t ≠ lo + j by omega]

/-! ### Numbers of byte sequences (R13, R14) -/

theorem beNat_cons (b : Byte) (bs : List Byte) : beNat (b :: bs) = b.toNat * 2 ^ (8 * bs.length) + beNat bs := by
  induction bs using List.reverseRecOn with
  | nil => simp [beNat]
  | append_singleton bs c ih =>
    rw [← List.cons_append, beNat_append_singleton, beNat_append_singleton, ih, List.length_append,
      List.length_singleton]
    ring

theorem beNat_lt (bs : List Byte) : beNat bs < 2 ^ (8 * bs.length) := by
  induction bs using List.reverseRecOn with
  | nil => simp
  | append_singleton bs b ih =>
    rw [beNat_append_singleton, List.length_append, List.length_singleton, Nat.mul_add, pow_add]
    omega

/-- The bytes written are those of the quotients (R14). -/
theorem beBytes_eq (n v : Nat) :
    beBytes n v = (List.range n).map fun k => BitVec.ofNat 8 (v / 2 ^ (8 * (n - 1 - k))) := by
  simp only [beBytes, Nat.shiftRight_eq_div_pow]

@[simp] theorem beBytes_zero (v : Nat) : beBytes 0 v = [] := rfl

theorem beBytes_succ (n v : Nat) : beBytes (n + 1) v = beBytes n (v / 2 ^ 8) ++ [BitVec.ofNat 8 v] := by
  rw [beBytes_eq, beBytes_eq, List.range_succ, List.map_append]
  congr 1
  · refine List.map_congr_left fun k hk => ?_
    have hexp : 8 * (n + 1 - 1 - k) = 8 + 8 * (n - 1 - k) := by have := List.mem_range.mp hk; omega
    rw [hexp, pow_add, ← Nat.div_div_eq_div_mul]
  · simp

/-- Writing back the big-endian number of a byte sequence gives the sequence. -/
theorem beBytes_beNat (bs : List Byte) : beBytes bs.length (beNat bs) = bs := by
  induction bs using List.reverseRecOn with
  | nil => rfl
  | append_singleton bs b ih =>
    have hdiv : (256 * beNat bs + b.toNat) / 2 ^ 8 = beNat bs := by omega
    have hbyte : BitVec.ofNat 8 (256 * beNat bs + b.toNat) = b :=
      BitVec.eq_of_toNat_eq (by rw [BitVec.toNat_ofNat]; omega)
    rw [beNat_append_singleton, List.length_append, List.length_singleton, beBytes_succ, hdiv, hbyte, ih]

theorem beBytes_memRead {id : List Byte} {k n : Nat} (h : k + n ≤ id.length) :
    beBytes n (memRead id k n) = (id.drop k).take n := by
  have hlen : ((id.drop k).take n).length = n := by rw [List.length_take, List.length_drop]; omega
  have hback := beBytes_beNat ((id.drop k).take n)
  rwa [hlen] at hback

/-- The first byte read is the most significant (R13). -/
theorem memRead_succ {id : List Byte} {k n : Nat} (h : k + n < id.length) :
    memRead id k (n + 1) = (byteAt id k).toNat * 2 ^ (8 * n) + memRead id (k + 1) n := by
  have hk : k < id.length := by omega
  have hrest : ((id.drop (k + 1)).take n).length = n := by rw [List.length_take, List.length_drop]; omega
  rw [memRead, List.drop_eq_getElem_cons hk, List.take_succ_cons, beNat_cons, hrest, memRead, byteAt,
    List.getD_eq_getElem _ _ hk]

@[simp] theorem memRead_zero (id : List Byte) (k : Nat) : memRead id k 0 = 0 := by simp [memRead]

theorem memRead_lt_pow (id : List Byte) (k n : Nat) : memRead id k n < 2 ^ (8 * n) :=
  (beNat_lt _).trans_le (Nat.pow_le_pow_right (by decide) (Nat.mul_le_mul_left 8 (List.length_take_le _ _)))

/-- A first byte below 2^c keeps the number of n + 1 bytes below 2^(c + 8n). -/
theorem memRead_lt {id : List Byte} {k n c : Nat} (hk : k + n < id.length) (hc : (byteAt id k).toNat < 2 ^ c) :
    memRead id k (n + 1) < 2 ^ (c + 8 * n) := by
  have hlow := memRead_lt_pow id (k + 1) n
  rw [memRead_succ hk, pow_add]
  nlinarith

theorem take_drop_append_drop (id : List Byte) (k n : Nat) : (id.drop k).take n ++ id.drop (k + n) = id.drop k := by
  rw [← List.drop_drop, List.take_append_drop]

/-- Zeros behind an identifier are what its buffer holds there already (R35). -/
theorem padId_append_zeros (id : List Byte) (n : Nat) : padId (id ++ List.replicate n 0) = padId id := by
  refine Vector.ext fun k hk => ?_
  rw [padId_getElem _ k hk, padId_getElem _ k hk]
  rcases Nat.lt_or_ge k id.length with hlt | hge
  · rw [List.getD_append _ _ _ _ hlt]
  · rw [List.getD_append_right _ _ _ _ hge, List.getD_eq_default _ _ hge]
    simp

end Sys2Proof.Machine
end

section
/-! SUPPORT. A codec behind the biphase demodulator, by the interval's number: what BP_STEP answers, what the codec
makes of it, and what FEED stores (R123, R150 to R152); and a codec's bit rule over a sequence of bits. -/

namespace Sys2Proof.Machine

/-! ### BP_STEP by the interval (R150, R151) -/

section Interval
variable {sync : Bool} {i : Nat}

theorem bpStep_reset (h : i ≤ 7 ∨ 56 ≤ i ∨ (sync = false ∧ 40 ≤ i)) : bpStep sync i = ⟨none, true, true⟩ := by
  obtain ⟨-, -, honeHalf, hinvalid⟩ := biphaseWindowsTile i
  by_cases hout : i ≤ 7 ∨ 56 ≤ i
  · exact bpStep_of_invalid sync (hinvalid.mpr hout)
  · obtain ⟨rfl, h40⟩ := (or_assoc.mpr h).resolve_left hout
    exact bpStep_of_oneHalf false (honeHalf.mpr (by omega))

theorem bpStep_silent (hsync : sync = false) (hlow : 8 ≤ i) (hhigh : i ≤ 23) :
    bpStep sync i = ⟨none, false, true⟩ := by
  rw [bpStep_of_half sync ((biphaseWindowsTile i).1.mpr ⟨hlow, hhigh⟩), hsync]
  rfl

theorem bpStep_bit {b y : Bool} (h : (sync = true ∧ 8 ≤ i ∧ i ≤ 23 ∧ b = true ∧ y = true)
    ∨ (24 ≤ i ∧ i ≤ 39 ∧ b = false ∧ y = true) ∨ (sync = true ∧ 40 ≤ i ∧ i ≤ 55 ∧ b = true ∧ y = false)) :
    bpStep sync i = ⟨some b, false, y⟩ := by
  obtain ⟨hhalf, hfull, honeHalf, -⟩ := biphaseWindowsTile i
  obtain ⟨rfl, hlow, hhigh, rfl, rfl⟩ | ⟨hlow, hhigh, rfl, rfl⟩ | ⟨rfl, hlow, hhigh, rfl, rfl⟩ := h
  · exact bpStep_of_half true (hhalf.mpr ⟨hlow, hhigh⟩)
  · exact bpStep_of_full sync (hfull.mpr ⟨hlow, hhigh⟩)
  · exact bpStep_of_oneHalf true (honeHalf.mpr ⟨hlow, hhigh⟩)

end Interval

/-! ### The codec behind it -/

section Codec
variable {onBit : Bool → Slot → Fed} {i : Nat} {S : Slot} {y : Bool}

theorem feedBiphase_of_reset (clear : Slot → Slot) (h : bpStep S.sync i = ⟨none, true, y⟩) :
    feedBiphase clear onBit i S = ⟨clear { S with sync := y }, none⟩ := by
  simp [feedBiphase, h]

theorem feedBiphase_of_silent (clear : Slot → Slot) (h : bpStep S.sync i = ⟨none, false, y⟩) :
    feedBiphase clear onBit i S = ⟨{ S with sync := y }, none⟩ := by
  simp [feedBiphase, h]

theorem feedBiphase_of_bit (clear : Slot → Slot) {b : Bool} (h : bpStep S.sync i = ⟨some b, false, y⟩) :
    feedBiphase clear onBit i S = onBit b { S with sync := y } := by
  simp [feedBiphase, h]

end Codec

/-! ### What FEED stores (R123) -/

section Stored
variable {v : Variant} {s : State} {n : BitVec 4} {S T : Slot} {data : BitVec 16}

theorem exec_feedRow_without_capture (hpac : v ≠ .pac) (hS : s.allocated? n = some S) (hv : S.variant = v)
    (hrule : feedRule v data s.cfg S = ⟨T, none⟩) :
    exec (feedRow v n data) s = .next { s with slots := s.slots.set n.toNat T, resp := 0 } := by
  rw [exec_feedRow_of_allocated data hpac hS hv, hrule, feedResp_eq]
  rfl

theorem exec_feedRow_of_capture {id : List Byte} (hpac : v ≠ .pac) (hverified : ¬ (v = .paradox ∨ v = .indala224))
    (hS : s.allocated? n = some S) (hv : S.variant = v) (hrule : feedRule v data s.cfg S = ⟨T, some id⟩) :
    exec (feedRow v n data) s = .next { s with
      slots := s.slots.set n.toNat { T with idBuf := padId id, dataValid := true }, resp := 0x10 } := by
  rw [exec_feedRow_of_allocated data hpac hS hv, hrule, feedResp_eq, if_neg hverified]
  rfl

end Stored

/-! ### A bit rule over a sequence -/

theorem feedBits_append (onBit : Bool → Slot → Fed) (F G : List Bool) (S : Slot) :
    feedBits onBit (F ++ G) S = ((feedBits onBit G (feedBits onBit F S).1).1,
      (feedBits onBit F S).2 ++ (feedBits onBit G (feedBits onBit F S).1).2) := by
  induction F generalizing S with
  | nil => rfl
  | cons b F ih => simp [feedBits, ih]

theorem feedBits_singleton (onBit : Bool → Slot → Fed) (b : Bool) (S : Slot) :
    feedBits onBit [b] S = ((onBit b S).slot, (onBit b S).id.toList) := by
  simp [feedBits]

end Sys2Proof.Machine
end

section
/-! PROOFS. The FDX-B codec (43_fdxb.md): the stuffed stream, the bits of a frame, the window test and the bit rule, then
the decoding of a frame and FEED. -/

namespace Sys2Proof.Machine

/-! ### Bit stuffing (R221, R225) -/

/-- Data bit i stands at position i + ⌊i/8⌋ of the stuffed stream, so removing every ninth bit undoes the stuffing. -/
theorem unstuffFrom_stuffFrom (i : Nat) (D : List Bool) : unstuffFrom (i + i / 8) (stuffFrom i D) = D := by
  induction D generalizing i with
  | nil => rfl
  | cons b D ih =>
    have hdata : (i + i / 8) % 9 ≠ 8 := by omega
    have hrest := ih (i + 1)
    rw [stuffFrom]
    split
    next hlast =>
      have hstuff : (i + i / 8 + 1) % 9 = 8 := by omega
      have hpos : i + i / 8 + 1 + 1 = i + 1 + (i + 1) / 8 := by omega
      rw [unstuffFrom, if_neg hdata, unstuffFrom, if_pos hstuff, hpos, hrest]
    next hinner =>
      have hpos : i + i / 8 + 1 = i + 1 + (i + 1) / 8 := by omega
      rw [unstuffFrom, if_neg hdata, hpos, hrest]

theorem unstuff_stuff (D : List Bool) : unstuff (stuff D) = D := unstuffFrom_stuffFrom 0 D

/-- Every ninth bit of a stuffed stream is a 1. -/
theorem bitAt_stuffFrom {i t : Nat} {D : List Bool} (hpos : (i + i / 8 + t) % 9 = 8)
    (ht : t < (stuffFrom i D).length) : bitAt (stuffFrom i D) t = true := by
  induction D generalizing i t with
  | nil => cases ht
  | cons b D ih =>
    rw [stuffFrom] at ht ⊢
    split at ht
    next hlast =>
      rw [if_pos hlast]
      obtain _ | _ | t := t
      · omega
      · rfl
      · rw [bitAt_cons_succ, bitAt_cons_succ]
        exact ih (by omega) (by simpa using ht)
    next hinner =>
      rw [if_neg hinner]
      obtain _ | t := t
      · omega
      · rw [bitAt_cons_succ]
        exact ih (by omega) (by simpa using ht)

/-- Removing the stuff bits keeps the positions that are not 8 mod 9. -/
theorem unstuffFrom_eq_map (i : Nat) (S : List Bool) :
    unstuffFrom i S = ((List.range S.length).filter fun t => (i + t) % 9 ≠ 8).map (bitAt S) := by
  induction S generalizing i with
  | nil => rfl
  | cons b S ih =>
    have hrest : unstuffFrom (i + 1) S
        = (((List.range S.length).map Nat.succ).filter fun t => (i + t) % 9 ≠ 8).map (bitAt (b :: S)) := by
      rw [ih, List.filter_map, List.map_map]
      congr 2
      funext t
      simp only [Function.comp_apply, Nat.succ_eq_add_one, Nat.add_assoc, Nat.add_comm 1 t]
    rw [unstuffFrom, List.length_cons, List.range_succ_eq_map, List.filter_cons, hrest]
    by_cases hi : i % 9 = 8
    · simp [hi]
    · simp [hi, bitAt]

theorem unstuff_eq_map (S : List Bool) :
    unstuff S = ((List.range S.length).filter fun t => t % 9 ≠ 8).map (bitAt S) := by
  rw [unstuff, unstuffFrom_eq_map]
  simp only [Nat.zero_add]

/-! ### The parts of a frame (R222, R223) -/

theorem kFdxb_eq : kFdxb = 0xE139 := by simp [kFdxb, crc16, crc16Byte, crc16Bit]

theorem length_fdxbData (id : List Byte) : (fdxbData id).length = 66 := by simp [fdxbData]

theorem length_stuff_fdxbData (id : List Byte) : (stuff (fdxbData id)).length = 74 := by
  have h := length_stuffFrom 0 (fdxbData id)
  rwa [length_fdxbData] at h

section Parts
variable (id : List Byte)

/-- The five parts of a frame, at their positions. -/
theorem slice_frameFdxb :
    slice (frameFdxb id) 0 11 = bitsOf 11 0x001
    ∧ slice (frameFdxb id) 11 53 = slice (stuff (fdxbData id)) 0 53
    ∧ slice (frameFdxb id) 64 16 = bitsOf 16 0xE139
    ∧ slice (frameFdxb id) 80 21 = slice (stuff (fdxbData id)) 53 21
    ∧ slice (frameFdxb id) 101 27 = List.replicate 27 false := by
  have hfirst : (slice (stuff (fdxbData id)) 0 53).length = 53 := length_slice (by rw [length_stuff_fdxbData]; decide)
  have hsecond : (slice (stuff (fdxbData id)) 53 21).length = 21 := length_slice (by rw [length_stuff_fdxbData])
  simp [frameFdxb, kFdxb_eq, slice_append_left, slice_append_right, hfirst, hsecond, slice_of_length]

/-- The two data parts of a frame are the stuffed stream. -/
theorem slice_frameFdxb_data :
    slice (frameFdxb id) 11 53 ++ slice (frameFdxb id) 80 21 = stuff (fdxbData id) := by
  obtain ⟨-, hfirst, -, hsecond, -⟩ := slice_frameFdxb id
  rw [hfirst, hsecond, slice_append_slice _ 0, slice_of_length (length_stuff_fdxbData id)]

end Parts

/-! ### The fields of R220 -/

/-- The data bits of a 16-byte identifier, its fields written out byte by byte (R220, R221). -/
theorem fdxbData_eq {id : List Byte} (hlen : id.length = 16) :
    fdxbData id
      = bitsOf 38 (((byteAt id 0).toNat * 2 ^ 32 + (byteAt id 1).toNat * 2 ^ 24 + (byteAt id 2).toNat * 2 ^ 16
          + (byteAt id 3).toNat * 2 ^ 8 + (byteAt id 4).toNat) % 2 ^ 38)
        ++ bitsOf 10 (((byteAt id 5).toNat * 2 ^ 8 + (byteAt id 6).toNat) % 2 ^ 10)
        ++ [(byteAt id 7).getLsbD 0, (byteAt id 8).getLsbD 0]
        ++ bitsOf 16 ((byteAt id 9).toNat * 2 ^ 8 + (byteAt id 10).toNat) := by
  simp [fdxbData, memRead_succ, hlen, Nat.add_assoc]

/-- Settles O36: the frame's parts stand at their positions, every ninth bit of the stuffed stream is a 1, and the
others are the data bits. -/
theorem fdxbFrameFixedFields : Obligations.FdxbFrameFixedFields := by
  unfold Obligations.FdxbFrameFixedFields
  intro id F S byte
  have hS : S = stuff (fdxbData id) := slice_frameFdxb_data id
  have hSlen : S.length = 74 := hS ▸ length_stuff_fdxbData id
  obtain ⟨hheader, -, hcrc, -, hpadding⟩ := slice_frameFdxb id
  refine ⟨length_frameFdxb id, ?header, ?crc, hpadding, fun m hm => ?stuffed, fun hlen => ?data⟩
  case header => rw [hheader, val_bitsOf]; rfl
  case crc => rw [hcrc, val_bitsOf]; rfl
  case stuffed =>
    rw [hS] at hSlen ⊢
    exact bitAt_stuffFrom (by omega) (by rw [← stuff, hSlen]; omega)
  case data =>
    rw [← fdxbData_eq hlen, ← unstuff_stuff (fdxbData id), ← hS, unstuff_eq_map, hSlen]

/-! ### The window test (R224) -/

/-- The header and the CRC field of a window, by its number. -/
theorem acceptFdxb_ofNat {x : Nat} (hx : x < 2 ^ 128) :
    acceptFdxb (BitVec.ofNat 128 x) = true ↔ x / 2 ^ 117 = 0x001 ∧ x / 2 ^ 48 % 2 ^ 16 = 0xE139 := by
  have hheader : x / 2 ^ 117 < 2 ^ 11 := by omega
  rw [acceptFdxb, kFdxb_eq, Bool.and_eq_true, decide_eq_true_eq, decide_eq_true_eq, ← BitVec.toNat_inj,
    ← BitVec.toNat_inj, BitVec.extractLsb'_toNat, BitVec.extractLsb'_toNat, BitVec.toNat_ofNat, Nat.mod_eq_of_lt hx,
    Nat.shiftRight_eq_div_pow, Nat.shiftRight_eq_div_pow, Nat.mod_eq_of_lt hheader]
  rfl

/-- Settles O46: a flip outside both fields leaves the test as it was, one inside changes the field it stands in. -/
theorem fdxbChecksHeaderAndCrcFieldOnly : Obligations.FdxbChecksHeaderAndCrcFieldOnly := by
  unfold Obligations.FdxbChecksHeaderAndCrcFieldOnly
  intro acc t ht haccept
  simp only [acceptFdxb, Bool.and_eq_true, decide_eq_true_eq] at haccept
  obtain ⟨hheader, hcrc⟩ := haccept
  rw [acceptFdxb, ← hheader, ← hcrc, Bool.and_eq_false_iff, decide_eq_false_iff_not, decide_eq_false_iff_not,
    extractLsb'_xor_twoPow_eq_iff acc 117 11 ht, extractLsb'_xor_twoPow_eq_iff acc 48 16 ht]
  omega

/-! ### The bit rule (R224) -/

/-- The bit rule by the window's number: the accumulator doubles and takes the bit, modulo 2^128. -/
theorem fdxbBit_eq (b : Bool) (S : Slot) :
    let acc := (2 * S.fdxb.acc.toNat + b.toNat) % 2 ^ 128
    let cnt := min (S.fdxb.cnt.toNat + 1) 128
    fdxbBit b S = if cnt = 128 ∧ acc / 2 ^ 117 = 0x001 ∧ acc / 2 ^ 48 % 2 ^ 16 = 0xE139 then
        ⟨{ S with fdxb := ⟨0, 0⟩ }, some (extractFdxb (bitsOf 128 acc))⟩
      else ⟨{ S with fdxb := ⟨BitVec.ofNat 128 acc, BitVec.ofNat 8 cnt⟩ }, none⟩ := by
  intro acc cnt
  have hacc : S.fdxb.acc <<< 1 ||| (BitVec.ofBool b).zeroExtend 128 = BitVec.ofNat 128 acc :=
    BitVec.eq_of_toNat_eq (by rw [toNat_shiftIn, BitVec.toNat_ofNat, Nat.mod_mod])
  have hlt : acc < 2 ^ 128 := Nat.mod_lt _ (by decide)
  simp only [fdxbBit, hacc, acceptFdxb_ofNat hlt, BitVec.toNat_ofNat, Nat.mod_eq_of_lt hlt]
  rfl

/-- The bit rule on a codec that holds the bits F since it was cleared. -/
theorem fdxbBit_of_filled {F : List Bool} {S : Slot} (b : Bool) (hF : F.length < 128)
    (hS : S.fdxb = ⟨BitVec.ofNat 128 (val F), BitVec.ofNat 8 F.length⟩) :
    fdxbBit b S =
      if F.length + 1 = 128 ∧ val (F ++ [b]) / 2 ^ 117 = 0x001 ∧ val (F ++ [b]) / 2 ^ 48 % 2 ^ 16 = 0xE139 then
        ⟨{ S with fdxb := ⟨0, 0⟩ }, some (extractFdxb (F ++ [b]))⟩
      else ⟨{ S with fdxb := ⟨BitVec.ofNat 128 (val (F ++ [b])), BitVec.ofNat 8 (F.length + 1)⟩ }, none⟩ := by
  have hval : val F < 2 ^ 128 := (val_lt F).trans (Nat.pow_lt_pow_right (by decide) hF)
  have hval' : val (F ++ [b]) < 2 ^ 128 :=
    (val_lt _).trans_le (Nat.pow_le_pow_right (by decide) (by simpa using hF))
  have hacc : (2 * S.fdxb.acc.toNat + b.toNat) % 2 ^ 128 = val (F ++ [b]) := by
    rw [hS, BitVec.toNat_ofNat, Nat.mod_eq_of_lt hval, ← val_append_singleton, Nat.mod_eq_of_lt hval']
  have hcnt : min (S.fdxb.cnt.toNat + 1) 128 = F.length + 1 := by
    rw [hS, BitVec.toNat_ofNat]
    omega
  rw [fdxbBit_eq, hacc, hcnt]
  split
  next hfull =>
    have hbits := bitsOf_val (F ++ [b])
    rw [List.length_append, List.length_singleton, hfull.1] at hbits
    rw [hbits]
  next => rfl

/-- From a cleared codec, fewer than 128 bits fill the accumulator and capture nothing. -/
theorem feedBits_fdxbBit_short {F : List Bool} {S : Slot} (hF : F.length < 128) (hS : S.fdxb = ⟨0, 0⟩) :
    feedBits fdxbBit F S
      = ({ S with fdxb := ⟨BitVec.ofNat 128 (val F), BitVec.ofNat 8 F.length⟩ }, []) := by
  induction F using List.reverseRecOn with
  | nil => exact congrArg (fun x => ({ S with fdxb := x }, [])) hS
  | append_singleton F b ih =>
    rw [List.length_append, List.length_singleton] at hF ⊢
    rw [feedBits_append, ih (by omega), feedBits_singleton, fdxbBit_of_filled b (by omega) rfl, if_neg (by omega)]
    rfl

/-- From a cleared codec, 128 bits that pass the window test are captured at the last one, and the codec is re-armed. -/
theorem feedBits_fdxbBit_frame {F : List Bool} {S : Slot} (hF : F.length = 128) (hS : S.fdxb = ⟨0, 0⟩)
    (hheader : val F / 2 ^ 117 = 0x001) (hcrc : val F / 2 ^ 48 % 2 ^ 16 = 0xE139) :
    feedBits fdxbBit F S = (S, [extractFdxb F]) := by
  obtain rfl | ⟨G, b, rfl⟩ := List.eq_nil_or_concat' F
  · cases hF
  · have hG : G.length + 1 = 128 := by simpa using hF
    rw [feedBits_append, feedBits_fdxbBit_short (by omega) hS, feedBits_singleton, fdxbBit_of_filled b (by omega) rfl,
      if_pos ⟨hG, hheader, hcrc⟩]
    exact congrArg (fun x => ({ S with fdxb := x }, [extractFdxb (G ++ [b])])) hS.symm

/-! ### Decoding a frame (R220, R225) -/

/-- Every frame passes the window test. -/
theorem val_frameFdxb (id : List Byte) :
    val (frameFdxb id) / 2 ^ 117 = 0x001 ∧ val (frameFdxb id) / 2 ^ 48 % 2 ^ 16 = 0xE139 := by
  have hlen := length_frameFdxb id
  have hlt := hlen ▸ val_lt (frameFdxb id)
  obtain ⟨hheader, -, hcrc, -⟩ := slice_frameFdxb id
  have hheaderVal := val_slice (F := frameFdxb id) (lo := 0) (n := 11) (by omega)
  have hcrcVal := val_slice (F := frameFdxb id) (lo := 64) (n := 16) (by omega)
  rw [hheader, val_bitsOf, hlen] at hheaderVal
  rw [hcrc, val_bitsOf, hlen] at hcrcVal
  omega

/-- The identifier extracted from a window, its bytes written out (R225). -/
theorem extractFdxb_eq {F : List Bool} (hF : F.length = 128) :
    let D := ((List.range 74).filter fun t => t % 9 ≠ 8).map (bitAt (slice F 11 53 ++ slice F 80 21))
    let nat := val (slice D 0 38)
    let cc := val (slice D 38 10)
    let res := val (slice D 50 16)
    extractFdxb F = [nat / 2 ^ 32, nat / 2 ^ 24, nat / 2 ^ 16, nat / 2 ^ 8, nat, cc / 2 ^ 8, cc, (bitAt D 48).toNat,
      (bitAt D 49).toNat, res / 2 ^ 8, res].map (BitVec.ofNat 8) ++ List.replicate 5 0 := by
  have hlen : (slice F 11 53 ++ slice F 80 21).length = 74 := by
    rw [List.length_append, length_slice (by omega), length_slice (by omega)]
  intro D nat cc res
  have hD : unstuff (slice F 11 53 ++ slice F 80 21) = D := by rw [unstuff_eq_map, hlen]
  rw [extractFdxb, hD]
  simp [beBytes_succ, Nat.div_div_eq_div_mul, nat, cc, res]

/-- The fields of the data bits read back. -/
theorem fdxbData_fields (id : List Byte) :
    val (slice (fdxbData id) 0 38) = memRead id 0 5 % 2 ^ 38 ∧ val (slice (fdxbData id) 38 10) = memRead id 5 2 % 2 ^ 10
    ∧ bitAt (fdxbData id) 48 = (byteAt id 7).getLsbD 0 ∧ bitAt (fdxbData id) 49 = (byteAt id 8).getLsbD 0
    ∧ val (slice (fdxbData id) 50 16) = memRead id 9 2 := by
  have hres : memRead id 9 2 < 65536 := memRead_lt_pow id 9 2
  simp [fdxbData, slice_append_left, slice_append_right, slice_cons_succ, slice_of_length, bitAt, val_bitsOf,
    Nat.mod_eq_of_lt hres]

/-- A byte that is 0 or 1 is its bit 0. -/
theorem beBytes_flag {b : Byte} (h : b.toNat ≤ 1) : beBytes 1 (b.getLsbD 0).toNat = [b] := by
  obtain rfl | rfl : b = 0 ∨ b = 1 := by
    rw [← BitVec.toNat_inj, ← BitVec.toNat_inj]
    exact Nat.le_one_iff_eq_zero_or_eq_one.mp h
  all_goals rfl

/-- A valid identifier by the fields of R220. -/
theorem fdxbValid_fields {id : List Byte} (h : fdxbValid id) :
    id = (id.drop 0).take 5 ++ (id.drop 5).take 2 ++ [byteAt id 7] ++ [byteAt id 8] ++ (id.drop 9).take 2
      ++ List.replicate 5 0 := by
  obtain ⟨hlen, -, -, -, -, hzero⟩ := h
  have hend : id.drop 11 = List.replicate 5 0 := by
    refine List.eq_replicate_iff.mpr ⟨by simp [hlen], fun b hb => ?_⟩
    obtain ⟨j, hj, rfl⟩ := List.mem_iff_getElem.mp hb
    rw [List.length_drop, hlen] at hj
    rw [List.getElem_drop, ← hzero (11 + j) (by omega) (by omega), byteAt, List.getD_eq_getElem]
  have hdbf : [byteAt id 7] = (id.drop 7).take 1 := by simp [byteAt, List.take_one, hlen]
  have han : [byteAt id 8] = (id.drop 8).take 1 := by simp [byteAt, List.take_one, hlen]
  rw [← hend, hdbf, han]
  simp only [List.append_assoc]
  rw [take_drop_append_drop id 9 2, take_drop_append_drop id 8 1, take_drop_append_drop id 7 1,
    take_drop_append_drop id 5 2, take_drop_append_drop id 0 5, List.drop_zero]

/-- A valid identifier is what decoding writes of its frame (R220). -/
theorem extractFdxb_frameFdxb {id : List Byte} (h : fdxbValid id) : extractFdxb (frameFdxb id) = id := by
  conv_rhs => rw [fdxbValid_fields h]
  obtain ⟨hlen, hnat, hcc, hdbf, han, -⟩ := h
  obtain ⟨hnatField, hccField, hdbfField, hanField, hresField⟩ := fdxbData_fields id
  have hnatFits : memRead id 0 5 < 2 ^ 38 := memRead_lt (c := 6) (by omega) (by omega)
  have hccFits : memRead id 5 2 < 2 ^ 10 := memRead_lt (c := 2) (by omega) (by omega)
  rw [extractFdxb, slice_frameFdxb_data, unstuff_stuff, hnatField, hccField, hdbfField, hanField, hresField,
    Nat.mod_eq_of_lt hnatFits, Nat.mod_eq_of_lt hccFits, beBytes_memRead (by omega), beBytes_memRead (by omega),
    beBytes_memRead (by omega), beBytes_flag hdbf, beBytes_flag han]

/-- Settles O37: the frame of a valid identifier passes the window test, at the 128th bit and not before. -/
theorem fdxbDecodesItsOwnFrames : Obligations.FdxbDecodesItsOwnFrames := by
  unfold Obligations.FdxbDecodesItsOwnFrames
  intro id S hvalid hS
  have hlen := length_frameFdxb id
  obtain ⟨hheader, hcrc⟩ := val_frameFdxb id
  constructor
  · rw [feedBits_fdxbBit_frame hlen hS hheader hcrc, extractFdxb_frameFdxb hvalid]
  · rw [feedBits_fdxbBit_short (by rw [List.length_take]; omega) hS]

/-! ### The command -/

/-- Settles O27: BP_STEP's answer by the interval, then the bit rule by the window's number. -/
theorem feedFdxbFollowsItsRule : Obligations.FeedFdxbFollowsItsRule := by
  unfold Obligations.FeedFdxbFollowsItsRule
  intro s n d S hS ha hp
  have halloc : s.allocated? n = some S := allocated?_eq_some.mpr ⟨hS, ha⟩
  have hv : S.variant = .fdxb := by rw [Slot.variant, hp, variantOf]
  have hpac : Variant.fdxb ≠ .pac := nofun
  have hfeed : feedRule .fdxb d s.cfg S
      = feedBiphase (fun T => { T with fdxb := FdxbCodec.zero }) fdxbBit d.toNat S := rfl
  refine ⟨fun hi => ?reset, fun hsync hlow hhigh => ?silent, fun b y hi => ?bit⟩
  case reset =>
    exact exec_feedRow_without_capture hpac halloc hv (hfeed.trans (feedBiphase_of_reset _ (bpStep_reset hi)))
  case silent =>
    exact exec_feedRow_without_capture hpac halloc hv
      (hfeed.trans (feedBiphase_of_silent _ (bpStep_silent hsync hlow hhigh)))
  case bit =>
    intro acc cnt F D nat cc res id
    have hrule := (hfeed.trans (feedBiphase_of_bit _ (bpStep_bit hi))).trans (fdxbBit_eq b { S with sync := y })
    split
    next hcapture =>
      have hid : extractFdxb F = id ++ List.replicate 5 0 := extractFdxb_eq (length_bitsOf 128 acc)
      have hexec := exec_feedRow_of_capture hpac (by decide) halloc hv (hrule.trans (if_pos hcapture))
      rwa [hid, padId_append_zeros] at hexec
    next hnone =>
      exact exec_feedRow_without_capture hpac halloc hv (hrule.trans (if_neg hnone))

end Sys2Proof.Machine
end

section
/-! SUPPORT. The bits of a frame of bytes (R12), one bit written into a frame, and a codec whose window of bits slides
(R245, R249): what it holds after bits that captured nothing, and what the last bit of a frame does. -/

namespace Sys2Proof.Machine

/-! ### The bits of a byte sequence (R12) -/

/-- The k-th eight bits are those of byte k. -/
theorem slice_bitsOfBytes {bs : List Byte} {k : Nat} (hk : k < bs.length) :
    slice (bitsOfBytes bs) (8 * k) 8 = bitsOf 8 (byteAt bs k).toNat := by
  induction bs generalizing k with
  | nil => cases hk
  | cons b bs ih =>
    have hcons : bitsOfBytes (b :: bs) = bitsOf 8 b.toNat ++ bitsOfBytes bs := rfl
    rw [hcons]
    cases k with
    | zero => rw [slice_append_left _ (by simp), slice_of_length (length_bitsOf 8 _)]; rfl
    | succ k =>
      have hpos : 8 * (k + 1) - (bitsOf 8 b.toNat).length = 8 * k := by rw [length_bitsOf]; omega
      rw [slice_append_right _ (by rw [length_bitsOf]; omega), hpos, ih (Nat.lt_of_succ_lt_succ hk)]
      rfl

/-- Each byte is sent most significant bit first. -/
theorem bitAt_bitsOfBytes {bs : List Byte} {t : Nat} (ht : t < 8 * bs.length) :
    bitAt (bitsOfBytes bs) t = (byteAt bs (t / 8)).getLsbD (7 - t % 8) := by
  have hj : t % 8 < 8 := Nat.mod_lt _ (by decide)
  have hbit : bitAt (slice (bitsOfBytes bs) (8 * (t / 8)) 8) (t % 8) = bitAt (bitsOfBytes bs) t := by
    rw [bitAt_slice hj, Nat.div_add_mod]
  rw [← hbit, slice_bitsOfBytes (by omega), bitAt_bitsOf _ hj, BitVec.testBit_toNat]

/-! ### One bit written into a frame -/

theorem bitAt_set_self {F : List Bool} {t : Nat} (b : Bool) (ht : t < F.length) : bitAt (F.set t b) t = b := by
  simp [bitAt, ht]

theorem bitAt_set_of_ne {F : List Bool} {t u : Nat} (b : Bool) (h : t ≠ u) : bitAt (F.set t b) u = bitAt F u := by
  simp [bitAt, h]

theorem bitAt_replicate_false (n t : Nat) : bitAt (List.replicate n false) t = false := by simp [bitAt]

/-! ### The sliding window (R37) -/

/-- The L bits of S.ACC that the next frame test reads, oldest first. -/
def IndalaCodec.window (L : Nat) (c : IndalaCodec) : List Bool := bitsOf L c.acc.toNat

theorem IndalaCodec.length_window (L : Nat) (c : IndalaCodec) : (c.window L).length = L := length_bitsOf L _

/-- A bit shifted in at the low end drops the oldest bit of the window. -/
theorem bitsOf_shiftIn (L a : Nat) (b : Bool) :
    bitsOf L ((2 * a + b.toNat) % 2 ^ L) = (bitsOf L a ++ [b]).drop 1 := by
  refine List.ext_getElem (by simp) fun t ht _ => ?_
  rw [length_bitsOf] at ht
  have hbit : (bitsOf L ((2 * a + b.toNat) % 2 ^ L))[t]'(by simpa) = (Nat.bit b a).testBit (L - 1 - t) := by
    simp [bitsOf, Nat.testBit_mod_two_pow, Nat.bit_val, show L - 1 - t < L by omega]
  rw [hbit, List.getElem_drop]
  rcases Nat.lt_or_ge (1 + t) L with hlt | hge
  · rw [List.getElem_append_left (by simpa), show L - 1 - t = L - 1 - (1 + t) + 1 by omega, Nat.testBit_bit_succ]
    simp [bitsOf]
  · rw [List.getElem_append_right (by simpa), show L - 1 - t = 0 by omega, Nat.testBit_bit_zero]
    simp

/-- The bit rule of a codec that slides a window of L bits (R245, R249): a full window that passes `accept` is captured
as `extract` reads it and the codec is cleared (R127), any other slides on. -/
def slideBit (L : Nat) (accept : List Bool → Bool) (extract : List Bool → List Byte) (b : Bool) (S : Slot) : Fed :=
  let acc := (2 * S.indala.acc.toNat + b.toNat) % 2 ^ L
  let cnt := min (S.indala.cnt.toNat + 1) L
  if cnt = L ∧ accept (bitsOf L acc) = true then ⟨{ S with indala := ⟨0, 0⟩ }, some (extract (bitsOf L acc))⟩
  else ⟨{ S with indala := ⟨BitVec.ofNat 224 acc, BitVec.ofNat 8 cnt⟩ }, none⟩

section Sliding
variable {L : Nat} {accept : List Bool → Bool} {extract : List Bool → List Byte} {S : Slot}

theorem slideBit_of_accept {b : Bool} (hfull : L ≤ S.indala.cnt.toNat + 1)
    (haccept : accept ((S.indala.window L ++ [b]).drop 1) = true) :
    slideBit L accept extract b S
      = ⟨{ S with indala := ⟨0, 0⟩ }, some (extract ((S.indala.window L ++ [b]).drop 1))⟩ := by
  simp only [slideBit, bitsOf_shiftIn]
  exact if_pos ⟨Nat.min_eq_right hfull, haccept⟩

/-- A bit that captures nothing slides the window and counts. -/
theorem slideBit_slides (hL : L ≤ 224) {b : Bool}
    (h : ¬ (L ≤ S.indala.cnt.toNat + 1 ∧ accept ((S.indala.window L ++ [b]).drop 1) = true)) :
    ∃ c : IndalaCodec, slideBit L accept extract b S = ⟨{ S with indala := c }, none⟩
      ∧ c.window L = (S.indala.window L ++ [b]).drop 1
      ∧ c.cnt.toNat = min (S.indala.cnt.toNat + 1) L := by
  have hacc : (2 * S.indala.acc.toNat + b.toNat) % 2 ^ L < 2 ^ 224 :=
    (Nat.mod_lt _ (by positivity)).trans_le (Nat.pow_le_pow_right (by decide) hL)
  refine ⟨⟨BitVec.ofNat 224 ((2 * S.indala.acc.toNat + b.toNat) % 2 ^ L),
    BitVec.ofNat 8 (min (S.indala.cnt.toNat + 1) L)⟩, if_neg fun hcapture => h ?_, ?_,
    toNat_ofNat_min (by omega)⟩
  · rw [bitsOf_shiftIn] at hcapture
    exact hcapture.imp_left min_eq_right_iff.mp
  · rw [IndalaCodec.window, BitVec.toNat_ofNat, Nat.mod_eq_of_lt hacc]
    exact bitsOf_shiftIn L _ b

/-- Bits that captured nothing leave the newest L bits in the window. -/
theorem feedBits_slideBit_silent (hL : L ≤ 224) {X : List Bool}
    (h : (feedBits (slideBit L accept extract) X S).2 = []) :
    ∃ c : IndalaCodec, feedBits (slideBit L accept extract) X S = ({ S with indala := c }, [])
      ∧ c.window L = (S.indala.window L ++ X).drop X.length
      ∧ min c.cnt.toNat L = min (S.indala.cnt.toNat + X.length) L := by
  induction X generalizing S with
  | nil => exact ⟨S.indala, rfl, by simp, rfl⟩
  | cons b X ih =>
    by_cases hcapture : L ≤ S.indala.cnt.toNat + 1 ∧ accept ((S.indala.window L ++ [b]).drop 1) = true
    · simp [feedBits, slideBit_of_accept hcapture.1 hcapture.2] at h
    · obtain ⟨c, hbit, hwindow, hcnt⟩ := slideBit_slides (extract := extract) hL hcapture
      rw [feedBits, hbit] at h ⊢
      obtain ⟨d, hrun, hwindow', hcnt'⟩ := ih h
      refine ⟨d, ?_, ?_, ?_⟩
      · rw [hrun]; rfl
      · rw [hwindow', hwindow, ← List.drop_append_of_le_length (by simp), List.drop_drop, List.append_assoc,
          List.singleton_append, List.length_cons, Nat.add_comm]
      · rw [hcnt', List.length_cons]; dsimp only; omega

/-- Fewer than L bits since the codec was cleared capture nothing. -/
theorem feedBits_slideBit_short (hL : L ≤ 224) {X : List Bool}
    (h : S.indala.cnt.toNat + X.length < L) : (feedBits (slideBit L accept extract) X S).2 = [] := by
  induction X generalizing S with
  | nil => rfl
  | cons b X ih =>
    rw [List.length_cons] at h
    obtain ⟨c, hbit, -, hcnt⟩ := slideBit_slides (accept := accept) (extract := extract) (S := S) (b := b) hL
      fun hcapture => by omega
    rw [feedBits, hbit]
    exact ih (S := { S with indala := c }) (by dsimp only; omega)

/-- The last bit of an L-bit frame finds that frame in the window, whatever came before it. -/
theorem feedBits_slideBit_frame (hpos : 1 ≤ L) (hL : L ≤ 224) {P F : List Bool} (hF : F.length = L)
    (h : (feedBits (slideBit L accept extract) (P ++ F.take (L - 1)) S).2 = []) :
    (accept F = true →
      feedBits (slideBit L accept extract) (P ++ F) S = ({ S with indala := ⟨0, 0⟩ }, [extract F]))
    ∧ (accept F = false → (feedBits (slideBit L accept extract) (P ++ F) S).2 = []) := by
  obtain rfl | ⟨G, b, rfl⟩ := List.eq_nil_or_concat' F
  · rw [List.length_nil] at hF; omega
  have hG : G.length = L - 1 := by rw [List.length_append, List.length_singleton] at hF; omega
  rw [List.take_left' hG] at h
  obtain ⟨c, hrun, hwindow, hcnt⟩ := feedBits_slideBit_silent hL h
  have hfull : L ≤ c.cnt.toNat + 1 := by rw [List.length_append] at hcnt; omega
  have hframe : (c.window L ++ [b]).drop 1 = G ++ [b] := by
    have hlen : (S.indala.window L ++ P).length = (P ++ G).length + 1 := by
      simp [IndalaCodec.length_window]; omega
    rw [hwindow, ← List.drop_append_of_le_length (by simp), List.drop_drop, ← hlen, List.append_assoc,
      List.append_assoc, ← List.append_assoc _ P, List.drop_left]
  rw [← List.append_assoc, feedBits_append, hrun, feedBits_singleton]
  constructor <;> intro haccept <;> rw [← hframe] at haccept
  · rw [slideBit_of_accept (S := { S with indala := c }) hfull haccept]
    simp [hframe]
  · obtain ⟨d, hbit, -⟩ := slideBit_slides (extract := extract) (S := { S with indala := c }) hL
      fun hcapture => ne_true_of_eq_false haccept hcapture.2
    rw [hbit]
    rfl

/-- From a cleared codec, a frame that passes is captured at its last bit and at no other. -/
theorem feedBits_slideBit_of_cleared (hpos : 1 ≤ L) (hL : L ≤ 224) {F : List Bool} (hF : F.length = L)
    (hS : S.indala = ⟨0, 0⟩) :
    (feedBits (slideBit L accept extract) (F.take (L - 1)) S).2 = []
    ∧ (accept F = true → feedBits (slideBit L accept extract) F S = (S, [extract F])) := by
  have hshort : (feedBits (slideBit L accept extract) (F.take (L - 1)) S).2 = [] :=
    feedBits_slideBit_short hL (by rw [hS, List.length_take]; simp; omega)
  refine ⟨hshort, fun haccept => ?_⟩
  have hrun := (feedBits_slideBit_frame (P := []) hpos hL hF hshort).1 haccept
  rwa [← hS] at hrun

end Sliding

end Sys2Proof.Machine
end

section
/-! PROOFS. The Indala 64 codec (44_indala.md), for every legal map: the frame as one placement of bits, the reading of
its fields and parities, what one changed bit does to them, and the decoding of a frame. -/

namespace Sys2Proof.Machine

/-! ### Placing bits (R244) -/

theorem placeBits_append {p q : List Nat} {b c : List Bool} (F : List Bool) (h : p.length = b.length) :
    placeBits (placeBits F p b) q c = placeBits F (p ++ q) (b ++ c) := by
  rw [placeBits, placeBits, placeBits, List.zip_append h, List.foldl_append]

theorem bitAt_placeBits_of_not_mem {pos : List Nat} {t : Nat} (F bits : List Bool) (h : t ∉ pos) :
    bitAt (placeBits F pos bits) t = bitAt F t := by
  induction pos generalizing F bits with
  | nil => rfl
  | cons p pos ih =>
    obtain ⟨hne, hpos⟩ := not_or.mp (mt List.mem_cons.mpr h)
    cases bits with
    | nil => rfl
    | cons b bits => exact (ih _ bits hpos).trans (bitAt_set_of_ne b (Ne.symm hne))

/-- Bits placed at distinct positions of a frame are read back from them. -/
theorem pickBits_placeBits {pos : List Nat} {F bits : List Bool} (hdistinct : pos.Nodup)
    (hlen : pos.length = bits.length) (hF : ∀ t ∈ pos, t < F.length) :
    pickBits (placeBits F pos bits) pos = bits := by
  induction pos generalizing F bits with
  | nil => exact (List.eq_nil_of_length_eq_zero hlen.symm).symm
  | cons p pos ih =>
    obtain ⟨hp, hdistinct⟩ := List.nodup_cons.mp hdistinct
    obtain ⟨b, bits, rfl⟩ := List.exists_cons_of_length_eq_add_one hlen.symm
    obtain ⟨hpF, hposF⟩ := List.forall_mem_cons.mp hF
    have hfirst : bitAt (placeBits (F.set p b) pos bits) p = b :=
      (bitAt_placeBits_of_not_mem _ bits hp).trans (bitAt_set_self b hpF)
    have hrest : pickBits (placeBits (F.set p b) pos bits) pos = bits :=
      ih hdistinct (Nat.succ.inj hlen) fun t ht => (List.length_set ..).symm ▸ hposF t ht
    exact congrArg₂ List.cons hfirst hrest

/-! ### Reading a frame (R246) -/

theorem pickBits_congr {F G : List Bool} {pos : List Nat} (h : ∀ t ∈ pos, bitAt G t = bitAt F t) :
    pickBits G pos = pickBits F pos := List.map_congr_left h

theorem parityOver_congr {F G : List Bool} {ts : List Nat} (h : ∀ t ∈ ts, bitAt G t = bitAt F t) :
    parityOver G ts = parityOver F ts := List.foldl_ext _ _ _ fun p t ht => by rw [h t ht]

/-- A chain of exclusive ors takes its start in like any other bit. -/
theorem foldl_xor_start {α : Type} (f : α → Bool) (l : List α) (p q : Bool) :
    l.foldl (fun r t => r ^^ f t) (p ^^ q) = (p ^^ l.foldl (fun r t => r ^^ f t) q) := by
  induction l generalizing q with
  | nil => rfl
  | cons t l ih => rw [List.foldl_cons, List.foldl_cons, Bool.xor_assoc, ih]

theorem parityOver_eq_not (F : List Bool) (ts : List Nat) :
    parityOver F ts = !(ts.foldl (fun p t => p ^^ bitAt F t) false) := by
  rw [← Bool.true_xor, ← foldl_xor_start]; rfl

theorem parityOver_cons (F : List Bool) (t : Nat) (ts : List Nat) :
    parityOver F (t :: ts) = (bitAt F t ^^ parityOver F ts) := by
  rw [parityOver, List.foldl_cons, Bool.xor_comm]
  exact foldl_xor_start _ ts _ _

/-- One changed bit changes the parity over the positions it is one of. -/
theorem parityOver_flip {F : List Bool} {t : Nat} {ts : List Nat} (hdistinct : ts.Nodup) (ht : t < F.length)
    (hmem : t ∈ ts) : parityOver (F.set t (!bitAt F t)) ts = !parityOver F ts := by
  induction ts with
  | nil => cases hmem
  | cons u ts ih =>
    obtain ⟨hu, hdistinct⟩ := List.nodup_cons.mp hdistinct
    rw [parityOver_cons, parityOver_cons]
    rcases List.mem_cons.mp hmem with rfl | hmem
    · have hrest : parityOver (F.set t (!bitAt F t)) ts = parityOver F ts :=
        parityOver_congr fun v hv => bitAt_set_of_ne _ fun heq => hu (heq ▸ hv)
      rw [hrest, bitAt_set_self _ ht, Bool.not_xor]
    · have hne : t ≠ u := fun heq => hu (heq ▸ hmem)
      rw [ih hdistinct hmem, bitAt_set_of_ne _ hne, Bool.xor_not]

theorem acceptIndala64_iff (m : IndalaMap) (F : List Bool) : acceptIndala64 m F = true ↔
    bitAt F 0 = true ∧ bitAt F 2 = true ∧ bitAt F 32 = true
    ∧ bitAt F m.p1Pos = parityOver F (oddPositions m) ∧ bitAt F m.p2Pos = parityOver F (evenPositions m)
    ∧ bitAt F 62 = indalaChkEven m (val (pickBits F m.cnPos))
    ∧ bitAt F 63 = !indalaChkEven m (val (pickBits F m.cnPos)) := by
  simp only [acceptIndala64, Bool.and_eq_true, beq_iff_eq, and_assoc]

theorem mem_oddPositions {m : IndalaMap} {t : Nat} :
    t ∈ oddPositions m ↔ (33 ≤ t ∧ t ≤ 63 ∧ t % 2 = 1) ∧ t ≠ m.p1Pos ∧ t ≠ m.p2Pos := by
  simp only [oddPositions, List.mem_filter, List.mem_range, decide_eq_true_eq]; omega

theorem mem_evenPositions {m : IndalaMap} {t : Nat} :
    t ∈ evenPositions m ↔ (36 ≤ t ∧ t ≤ 62 ∧ t % 2 = 0) ∧ t ≠ m.p1Pos ∧ t ≠ m.p2Pos := by
  simp only [evenPositions, List.mem_filter, List.mem_range, decide_eq_true_eq]; omega

/-! ### Legal maps (R241, log 9) -/

/-- The positions a frame's bits are placed at: markers, fc, cn, trailer, P1 and P2. -/
def framePositions (m : IndalaMap) : List Nat :=
  [0, 2, 32] ++ m.fcPos ++ m.cnPos ++ [62, 63] ++ [m.p1Pos, m.p2Pos]

theorem fields_of_wf {m : IndalaMap} (hm : m.wf = true) :
    m.fcPos.length = 8 ∧ m.cnPos.length = 16 ∧ (m.fcPos ++ m.cnPos ++ [m.p1Pos, m.p2Pos]).Nodup
    ∧ ∀ t ∈ m.fcPos ++ m.cnPos ++ [m.p1Pos, m.p2Pos], 33 ≤ t ∧ t ≤ 61 := by
  simp only [IndalaMap.wf, Bool.and_eq_true, decide_eq_true_eq, List.all_eq_true] at hm
  obtain ⟨⟨⟨⟨hfc, hcn⟩, hdistinct⟩, hbounds⟩, -⟩ := hm
  exact ⟨hfc, hcn, hdistinct, hbounds⟩

/-- The map names the positions of a frame but the markers and the trailer. -/
theorem framePositions_perm (m : IndalaMap) :
    (framePositions m).Perm ([0, 2, 32, 62, 63] ++ (m.fcPos ++ m.cnPos ++ [m.p1Pos, m.p2Pos])) := by
  refine List.perm_iff_count.mpr fun t => ?_
  simp only [framePositions, List.count_append, List.count_cons, List.count_nil]
  omega

theorem framePositions_nodup {m : IndalaMap} (hm : m.wf = true) : (framePositions m).Nodup := by
  obtain ⟨-, -, hdistinct, hbounds⟩ := fields_of_wf hm
  have hapart : ∀ t ∈ [0, 2, 32, 62, 63], ¬ (33 ≤ t ∧ t ≤ 61) := by decide
  exact (framePositions_perm m).nodup_iff.mpr (List.nodup_append.mpr
    ⟨by decide, hdistinct, fun t ht u hu heq => hapart t ht (heq ▸ hbounds u hu)⟩)

theorem lt_of_mem_framePositions {m : IndalaMap} (hm : m.wf = true) {t : Nat} (ht : t ∈ framePositions m) : t < 64 := by
  obtain ⟨-, -, -, hbounds⟩ := fields_of_wf hm
  have hfixed : ∀ t ∈ [0, 2, 32, 62, 63], t < 64 := by decide
  rcases List.mem_append.mp ((framePositions_perm m).mem_iff.mp ht) with ht | ht
  · exact hfixed t ht
  · exact (hbounds t ht).2.trans_lt (by decide)

theorem wf_default : IndalaMap.default.wf = true := by decide

/-! ### The frame (R241 to R244) -/

section Frame
variable {m : IndalaMap}

/-- The parities do not cover their own positions, so they are those of the frame they are placed in (R243). -/
theorem parityOver_frameIndala64 (m : IndalaMap) (id : List Byte) {ts : List Nat}
    (h : ∀ t ∈ ts, t ≠ m.p1Pos ∧ t ≠ m.p2Pos) : parityOver (frameIndala64 m id) ts
      = parityOver (indala64Body m (byteAt id 0).toNat (memRead id 1 2)) ts :=
  parityOver_congr fun t ht => bitAt_placeBits_of_not_mem _ _ (by simp [h t ht])

/-- The bits of a frame, in the order of `framePositions`. -/
def framedBits (m : IndalaMap) (id : List Byte) : List Bool :=
  [true, true, true] ++ bitsOf 8 (byteAt id 0).toNat ++ bitsOf 16 (memRead id 1 2)
    ++ [indalaChkEven m (memRead id 1 2), !indalaChkEven m (memRead id 1 2)]
    ++ [parityOver (frameIndala64 m id) (oddPositions m), parityOver (frameIndala64 m id) (evenPositions m)]

theorem length_framePositions (hm : m.wf = true) (id : List Byte) :
    (framePositions m).length = (framedBits m id).length := by
  obtain ⟨hfc, hcn, -⟩ := fields_of_wf hm
  simp [framePositions, framedBits, hfc, hcn]

/-- The five placements of a frame are one. -/
theorem frameIndala64_eq (hm : m.wf = true) (id : List Byte) :
    frameIndala64 m id = placeBits (List.replicate 64 false) (framePositions m) (framedBits m id) := by
  obtain ⟨hfc, hcn, -⟩ := fields_of_wf hm
  rw [framedBits, parityOver_frameIndala64 m id fun t ht => (mem_oddPositions.mp ht).2,
    parityOver_frameIndala64 m id fun t ht => (mem_evenPositions.mp ht).2, framePositions,
    ← placeBits_append, ← placeBits_append, ← placeBits_append, ← placeBits_append]
  · rfl
  all_goals simp [hfc, hcn]

/-- A position that no field of the map takes carries a 0. -/
theorem bitAt_frameIndala64_of_not_mem (hm : m.wf = true) (id : List Byte) {t : Nat} (h : t ∉ framePositions m) :
    bitAt (frameIndala64 m id) t = false := by
  rw [frameIndala64_eq hm, bitAt_placeBits_of_not_mem _ _ h, bitAt_replicate_false]

/-- Every field of a frame reads back from its positions. -/
theorem frameIndala64_fields (hm : m.wf = true) (id : List Byte) :
    let F := frameIndala64 m id
    let cn := memRead id 1 2
    (bitAt F 0 = true ∧ bitAt F 2 = true ∧ bitAt F 32 = true)
    ∧ pickBits F m.fcPos = bitsOf 8 (byteAt id 0).toNat
    ∧ pickBits F m.cnPos = bitsOf 16 cn
    ∧ (bitAt F 62 = indalaChkEven m cn ∧ bitAt F 63 = !indalaChkEven m cn)
    ∧ bitAt F m.p1Pos = parityOver F (oddPositions m) ∧ bitAt F m.p2Pos = parityOver F (evenPositions m) := by
  obtain ⟨hfc, hcn, -⟩ := fields_of_wf hm
  intro F cn
  have hread := pickBits_placeBits (F := List.replicate 64 false) (framePositions_nodup hm)
    (length_framePositions hm id) fun t ht => List.length_replicate ▸ lt_of_mem_framePositions hm ht
  rw [← frameIndala64_eq hm id] at hread
  simp only [pickBits, framePositions, List.map_append] at hread
  obtain ⟨hread, hparity⟩ := List.append_inj hread (by simp [hfc, hcn])
  obtain ⟨hread, htrailer⟩ := List.append_inj hread (by simp [hfc, hcn])
  obtain ⟨hread, hcnBits⟩ := List.append_inj hread (by simp [hfc])
  obtain ⟨hmarkers, hfcBits⟩ := List.append_inj hread rfl
  simp only [List.map_cons, List.map_nil, List.cons.injEq, and_true] at hmarkers htrailer hparity
  exact ⟨hmarkers, hfcBits, hcnBits, htrailer, hparity⟩

theorem val_pickBits_cnPos (hm : m.wf = true) (id : List Byte) :
    val (pickBits (frameIndala64 m id) m.cnPos) = memRead id 1 2 := by
  obtain ⟨-, -, hcn, -⟩ := frameIndala64_fields hm id
  rw [hcn, val_bitsOf, Nat.mod_eq_of_lt (memRead_lt_pow id 1 2)]

/-- Every frame passes its own test. -/
theorem acceptIndala64_frameIndala64 (hm : m.wf = true) (id : List Byte) :
    acceptIndala64 m (frameIndala64 m id) = true := by
  obtain ⟨⟨h0, h2, h32⟩, -, -, ⟨h62, h63⟩, hp1, hp2⟩ := frameIndala64_fields hm id
  rw [acceptIndala64_iff, val_pickBits_cnPos hm]
  exact ⟨h0, h2, h32, hp1, hp2, h62, h63⟩

/-- Every three bytes are what decoding writes of their frame. -/
theorem extractIndala64_frameIndala64 (hm : m.wf = true) {id : List Byte} (hid : id.length = 3) :
    extractIndala64 m (frameIndala64 m id) = id := by
  obtain ⟨-, hfc, -⟩ := frameIndala64_fields hm id
  have hbyte : memRead id 0 1 = (byteAt id 0).toNat := by
    rw [memRead_succ (by omega), memRead_zero, Nat.mul_zero, pow_zero, Nat.mul_one, Nat.add_zero]
  have hfcVal : val (pickBits (frameIndala64 m id) m.fcPos) = memRead id 0 1 := by
    rw [hfc, val_bitsOf, hbyte, Nat.mod_eq_of_lt (byteAt id 0).isLt]
  have hend : (id.drop 1).take 2 = id.drop 1 := List.take_of_length_le (by rw [List.length_drop]; omega)
  rw [extractIndala64, hfcVal, val_pickBits_cnPos hm, beBytes_memRead (by omega), beBytes_memRead (by omega), hend,
    take_drop_append_drop id 0 1, List.drop_zero]

end Frame

/-! ### The spec's own map (R241, R242) -/

theorem oddPositions_default : oddPositions IndalaMap.default = (List.range 16).map fun j => 33 + 2 * j := by decide

theorem evenPositions_default :
    evenPositions IndalaMap.default = [36, 40, 42, 44, 46, 48, 50, 52, 54, 56, 58, 60, 62] := by decide

theorem parityOver_oddPositions_default (F : List Bool) : parityOver F (oddPositions IndalaMap.default)
    = (List.range 16).foldl (fun p j => p ^^ bitAt F (33 + 2 * j)) true := by
  rw [oddPositions_default, parityOver, List.foldl_map]

/-- The bits 0..31 of a frame: the markers at 0 and 2, zeros elsewhere (R241). -/
theorem slice_frameIndala64_first (id : List Byte) :
    slice (frameIndala64 IndalaMap.default id) 0 32 = bitsOf 32 0xA0000000 := by
  have hlen := length_slice (F := frameIndala64 IndalaMap.default id) (lo := 0) (n := 32)
    (by rw [length_frameIndala64]; decide)
  obtain ⟨⟨h0, h2, -⟩, -⟩ := frameIndala64_fields wf_default id
  rw [← map_bitAt_range (slice _ 0 32), hlen, bitsOf]
  refine List.map_congr_left fun t ht => ?_
  have ht := List.mem_range.mp ht
  rw [bitAt_slice ht, Nat.zero_add]
  by_cases hmem : t ∈ framePositions IndalaMap.default
  · have hmarker : ∀ u < 32, u ∈ framePositions IndalaMap.default → u = 0 ∨ u = 2 := by decide
    obtain rfl | rfl := hmarker t ht hmem
    · rw [h0]; rfl
    · rw [h2]; rfl
  · have hzero : ∀ u < 32, u ∉ framePositions IndalaMap.default →
        Nat.testBit 0xA0000000 (32 - 1 - u) = false := by decide
    rw [bitAt_frameIndala64_of_not_mem wf_default id hmem, hzero t ht hmem]

/-- Settles O47: each field reads back from its positions, the others carry zeros, and a parity that starts at 1 makes
its positions odd in sum with it. -/
theorem indala64FrameLayout : Obligations.Indala64FrameLayout := by
  unfold Obligations.Indala64FrameLayout
  intro fc cn F even
  have hcnNat : memRead [fc, cn.extractLsb' 8 8, cn.extractLsb' 0 8] 1 2 = cn.toNat := by
    simp [memRead, beNat, Nat.shiftRight_eq_div_pow]; omega
  have heven : indalaChkEven IndalaMap.default cn.toNat = decide even := by
    simp only [indalaChkEven, BitVec.testBit_toNat]; rfl
  obtain ⟨⟨-, -, h32⟩, hfc, hcn, ⟨h62, h63⟩, hp1, hp2⟩ := frameIndala64_fields wf_default
    [fc, cn.extractLsb' 8 8, cn.extractLsb' 0 8]
  rw [hcnNat] at hcn h62 h63
  rw [heven] at h62 h63
  have hzero (t : Nat) (ht : t ∉ framePositions IndalaMap.default) : bitAt F t = false :=
    bitAt_frameIndala64_of_not_mem wf_default _ ht
  refine ⟨?first, h32, hzero 55 (by decide), hzero 60 (by decide), hzero 61 (by decide), hfc, hcn, ?chk, ?notChk,
    ?odd, ?even⟩
  case first => rw [slice_frameIndala64_first, val_bitsOf]; rfl
  case chk => rw [h62, decide_eq_true_eq]
  case notChk => rw [h63, ← decide_not, decide_eq_true_eq]
  case odd =>
    have hp1 : bitAt F 34 = !((List.range 16).foldl (fun p j => p ^^ bitAt F (33 + 2 * j)) false) := by
      rw [← List.foldl_map (f := fun j => 33 + 2 * j) (g := fun p t => p ^^ bitAt F t), ← oddPositions_default,
        ← parityOver_eq_not]
      exact hp1
    rw [hp1, Bool.not_xor_self]
  case even =>
    have hp2 : bitAt F 38 = !((evenPositions IndalaMap.default).foldl (fun p t => p ^^ bitAt F t) false) := by
      rw [← parityOver_eq_not]
      exact hp2
    rw [← evenPositions_default, ← Bool.xor_false (bitAt F 38), foldl_xor_start, hp2, Bool.not_xor_self]

/-! ### One changed bit (R246) -/

/-- The test and the identifier read the markers and the positions from 33 on alone. -/
theorem indala64_congr {m : IndalaMap} (hm : m.wf = true) {F G : List Bool}
    (h : ∀ t, t = 0 ∨ t = 2 ∨ 32 ≤ t → bitAt G t = bitAt F t) :
    acceptIndala64 m G = acceptIndala64 m F ∧ extractIndala64 m G = extractIndala64 m F := by
  obtain ⟨-, -, -, hbounds⟩ := fields_of_wf hm
  have hmap : ∀ t ∈ m.fcPos ++ m.cnPos ++ [m.p1Pos, m.p2Pos], bitAt G t = bitAt F t := fun t ht =>
    h t (.inr (.inr (Nat.le_of_succ_le (hbounds t ht).1)))
  simp only [List.forall_mem_append, List.forall_mem_cons, List.not_mem_nil, false_imp_iff, implies_true,
    and_true] at hmap
  obtain ⟨⟨hfc, hcn⟩, hp1, hp2⟩ := hmap
  have hodd : parityOver G (oddPositions m) = parityOver F (oddPositions m) :=
    parityOver_congr fun t ht => h t (by have := (mem_oddPositions.mp ht).1; omega)
  have heven : parityOver G (evenPositions m) = parityOver F (evenPositions m) :=
    parityOver_congr fun t ht => h t (by have := (mem_evenPositions.mp ht).1; omega)
  constructor
  · simp only [acceptIndala64, h 0 (by omega), h 2 (by omega), h 32 (by omega), h 62 (by omega), h 63 (by omega), hp1,
      hp2, hodd, heven, pickBits_congr hcn]
  · rw [extractIndala64, pickBits_congr hfc, pickBits_congr hcn, extractIndala64]

/-- A changed bit that one parity covers, or that is that parity, breaks it: of the two sides one changes alone. -/
theorem parity_ne_of_flip {F : List Bool} {t p : Nat} {ts : List Nat} (hdistinct : ts.Nodup) (hp : p ∉ ts)
    (ht : t < F.length) (hmem : t = p ∨ t ∈ ts) (hF : bitAt F p = parityOver F ts) :
    bitAt (F.set t (!bitAt F t)) p ≠ parityOver (F.set t (!bitAt F t)) ts := by
  rcases hmem with rfl | hmem
  · have hsame : parityOver (F.set t (!bitAt F t)) ts = parityOver F ts :=
      parityOver_congr fun u hu => bitAt_set_of_ne _ fun heq => hp (heq ▸ hu)
    rw [bitAt_set_self _ ht, hsame, hF]
    exact Bool.not_ne_self _
  · have hne : t ≠ p := fun heq => hp (heq ▸ hmem)
    rw [bitAt_set_of_ne _ hne, parityOver_flip hdistinct ht hmem, hF]
    exact (Bool.not_ne_self _).symm

/-- The marker, P1, P2 and the positions they cover are all there is from 32 on (R243). -/
theorem covered_of_le {t : Nat} (hlow : 32 ≤ t) (hhigh : t < 64) :
    t = 32 ∨ (t = IndalaMap.default.p1Pos ∨ t ∈ oddPositions IndalaMap.default)
      ∨ (t = IndalaMap.default.p2Pos ∨ t ∈ evenPositions IndalaMap.default) := by
  rw [mem_oddPositions, mem_evenPositions, show IndalaMap.default.p1Pos = 34 from rfl,
    show IndalaMap.default.p2Pos = 38 from rfl]
  omega

/-- Settles O44: a changed marker fails the marker test, and from 33 on the bit is a parity or under one; the positions
left are not read. -/
theorem indala64RejectsSingleBitChanges : Obligations.Indala64RejectsSingleBitChanges := by
  unfold Obligations.Indala64RejectsSingleBitChanges
  intro id t hid ht F G
  have haccept : acceptIndala64 IndalaMap.default F = true := acceptIndala64_frameIndala64 wf_default id
  have hlen : t < F.length := (length_frameIndala64 _ id).symm ▸ ht
  refine ⟨fun hread => ?rejected, fun hunread => ?accepted⟩
  case rejected =>
    obtain ⟨h0, h2, h32, hp1, hp2, -⟩ := (acceptIndala64_iff _ _).mp haccept
    have hmarker (hF : bitAt F t = true) (hG : bitAt G t = true) : False := by
      rw [bitAt_set_self _ hlen, hF] at hG
      cases hG
    rw [Bool.eq_false_iff, Ne, acceptIndala64_iff]
    rintro ⟨h0', h2', h32', hp1', hp2', -⟩
    have hcases : t = 0 ∨ t = 2 ∨ _ := hread.imp_right (Or.imp_right fun hlow => covered_of_le hlow ht)
    obtain rfl | rfl | rfl | hodd | heven := hcases
    · exact hmarker h0 h0'
    · exact hmarker h2 h2'
    · exact hmarker h32 h32'
    · exact parity_ne_of_flip (by decide) (by decide) hlen hodd hp1 hp1'
    · exact parity_ne_of_flip (by decide) (by decide) hlen heven hp2 hp2'
  case accepted =>
    obtain ⟨hacceptEq, hextractEq⟩ := indala64_congr wf_default (F := F) (G := G) fun u hu =>
      bitAt_set_of_ne _ (by omega)
    exact ⟨hacceptEq.trans haccept,
      hextractEq.trans (extractIndala64_frameIndala64 wf_default hid)⟩

/-! ### The bit rule and the decoding of a frame (R245) -/

/-- The bit rule by the window's number: the low 64 bits of S.ACC slide. -/
theorem indala64Bit_eq (m : IndalaMap) : indala64Bit m = slideBit 64 (acceptIndala64 m) (extractIndala64 m) := by
  funext b S
  have hacc : (S.indala.acc.truncate 64 <<< 1 ||| (BitVec.ofBool b).zeroExtend 64).toNat
      = (2 * S.indala.acc.toNat + b.toNat) % 2 ^ 64 := by
    rw [toNat_shiftIn, BitVec.truncate_eq_setWidth, BitVec.toNat_setWidth]; omega
  have hwide : (S.indala.acc.truncate 64 <<< 1 ||| (BitVec.ofBool b).zeroExtend 64).zeroExtend 224
      = BitVec.ofNat 224 ((2 * S.indala.acc.toNat + b.toNat) % 2 ^ 64) :=
    BitVec.eq_of_toNat_eq (by rw [BitVec.zeroExtend_eq_setWidth, BitVec.toNat_setWidth, hacc, BitVec.toNat_ofNat])
  simp only [indala64Bit, hacc, hwide]
  rfl

/-- The identifier extracted from a window, its bytes written out (R246). -/
theorem extractIndala64_eq (m : IndalaMap) (F : List Bool) :
    extractIndala64 m F = [BitVec.ofNat 8 (val (pickBits F m.fcPos)), BitVec.ofNat 8 (val (pickBits F m.cnPos) / 256),
      BitVec.ofNat 8 (val (pickBits F m.cnPos))] := by
  simp [extractIndala64, beBytes_succ]

/-- Settles O40: the codec slides a 64-bit window, which holds the frame at its last bit whatever came before. -/
theorem indala64DecodesItsOwnFrames : Obligations.Indala64DecodesItsOwnFrames := by
  unfold Obligations.Indala64DecodesItsOwnFrames
  rw [indala64Bit_eq]
  refine ⟨fun b S => ?rule, fun id S P hid => ?frame⟩
  case rule =>
    intro acc cnt F fc cn even p1 p2
    have htest : acceptIndala64 IndalaMap.default F = true ↔ bitAt F 0 = true ∧ bitAt F 2 = true ∧ bitAt F 32 = true
        ∧ bitAt F 34 = p1 ∧ bitAt F 38 = p2 ∧ bitAt F 62 = even ∧ bitAt F 63 = !even := by
      rw [acceptIndala64_iff, parityOver_oddPositions_default, evenPositions_default]
      rfl
    simp only [slideBit, extractIndala64_eq]
    exact if_congr (and_congr_right fun _ => htest) rfl rfl
  case frame =>
    have hlen := length_frameIndala64 IndalaMap.default id
    have haccept := acceptIndala64_frameIndala64 wf_default id
    intro onBit F
    have hextract : extractIndala64 IndalaMap.default F = id := extractIndala64_frameIndala64 wf_default hid
    refine ⟨fun hsilent => ?_, fun hS => ?_⟩
    · have hrun := (feedBits_slideBit_frame (by decide) (by decide) hlen hsilent).1 haccept
      rwa [hextract] at hrun
    · obtain ⟨hshort, hrun⟩ := feedBits_slideBit_of_cleared (accept := acceptIndala64 IndalaMap.default)
        (extract := extractIndala64 IndalaMap.default) (by decide) (by decide) hlen hS
      exact ⟨(hrun haccept).trans (congrArg (fun i => (S, [i])) hextract), hshort⟩

end Sys2Proof.Machine
end

section
/-! PROOFS. The Indala 224 codec (44_indala.md): the bits of a frame, the marker test, and the decoding of a marked
frame. -/

namespace Sys2Proof.Machine

/-! ### The frame (R248) -/

theorem byteAt_frameBytes (id : List Byte) {k : Nat} (hk : k < 28) :
    byteAt ((List.range 28).map (byteAt id)) k = byteAt id k := by
  simp [byteAt, hk]

theorem bitAt_frameIndala224 (id : List Byte) {t : Nat} (ht : t < 224) :
    bitAt (frameIndala224 id) t = (byteAt id (t / 8)).getLsbD (7 - t % 8) := by
  rw [frameIndala224, bitAt_bitsOfBytes (by simpa using ht), byteAt_frameBytes id (by omega)]

/-- Every 28 bytes are what decoding writes of their frame. -/
theorem extractIndala224_frameIndala224 {id : List Byte} (hid : id.length = 28) :
    extractIndala224 (frameIndala224 id) = id := by
  refine List.ext_getElem (by simp [extractIndala224, hid]) fun k hk hk' => ?_
  have hk28 : k < 28 := hid ▸ hk'
  have hbyte : val (slice (frameIndala224 id) (8 * k) 8) = (byteAt id k).toNat := by
    rw [frameIndala224, slice_bitsOfBytes (by simpa using hk28), byteAt_frameBytes id hk28, val_bitsOf,
      Nat.mod_eq_of_lt (byteAt id k).isLt]
  simp [extractIndala224, hbyte, byteAt, hk']

/-! ### The marker test (R249) -/

theorem acceptIndala224_iff (F : List Bool) :
    acceptIndala224 F = true ↔ bitAt F 0 = true ∧ bitAt F 2 = true ∧ bitAt F 32 = true := by
  simp only [acceptIndala224, Bool.and_eq_true, and_assoc]

/-- A frame passes exactly when its identifier is marked. -/
theorem acceptIndala224_frameIndala224 (id : List Byte) : acceptIndala224 (frameIndala224 id) = true ↔
    (byteAt id 0).getLsbD 7 ∧ (byteAt id 0).getLsbD 5 ∧ (byteAt id 4).getLsbD 7 := by
  rw [acceptIndala224_iff, bitAt_frameIndala224 id (by decide), bitAt_frameIndala224 id (by decide),
    bitAt_frameIndala224 id (by decide)]

/-- The markers of a window by its number. -/
theorem acceptIndala224_bitsOf (x : Nat) : acceptIndala224 (bitsOf 224 x) = true ↔
    x.testBit 223 = true ∧ x.testBit 221 = true ∧ x.testBit 191 = true := by
  rw [acceptIndala224_iff, bitAt_bitsOf x (by decide), bitAt_bitsOf x (by decide), bitAt_bitsOf x (by decide)]

/-- The identifier of a window by its number: its 28 bytes, the most significant first. -/
theorem extractIndala224_bitsOf {x : Nat} (hx : x < 2 ^ 224) : extractIndala224 (bitsOf 224 x)
    = (List.range 28).map fun k => BitVec.ofNat 8 (x / 2 ^ (216 - 8 * k)) := by
  refine List.map_congr_left fun k hk => BitVec.eq_of_toNat_eq ?_
  have hk := List.mem_range.mp hk
  have hpos : 224 - 8 * k - 8 = 216 - 8 * k := by omega
  rw [val_slice (by rw [length_bitsOf]; omega), length_bitsOf, val_bitsOf, Nat.mod_eq_of_lt hx, hpos,
    BitVec.toNat_ofNat, BitVec.toNat_ofNat, Nat.mod_mod]

/-! ### The bit rule and the decoding of a frame (R249) -/

theorem indala224Bit_eq : indala224Bit = slideBit 224 acceptIndala224 extractIndala224 := by
  funext b S
  have hacc : S.indala.acc <<< 1 ||| (BitVec.ofBool b).zeroExtend 224
      = BitVec.ofNat 224 ((2 * S.indala.acc.toNat + b.toNat) % 2 ^ 224) :=
    BitVec.eq_of_toNat_eq (by rw [toNat_shiftIn, BitVec.toNat_ofNat, Nat.mod_mod])
  simp only [indala224Bit, hacc, BitVec.toNat_ofNat, Nat.mod_mod]
  rfl

/-- Settles O41: the codec slides a 224-bit window, which holds the frame at its last bit whatever came before, and
the markers alone decide. -/
theorem indala224DecodesMarkedFrames : Obligations.Indala224DecodesMarkedFrames := by
  unfold Obligations.Indala224DecodesMarkedFrames
  rw [indala224Bit_eq]
  refine ⟨fun id t => bitAt_frameIndala224 id, fun b S => ?rule, fun id S P hid => ?frame⟩
  case rule =>
    intro acc cnt
    have hacc : acc < 2 ^ 224 := Nat.mod_lt _ (by positivity)
    have hextract : extractIndala224 (bitsOf 224 acc) = _ := extractIndala224_bitsOf hacc
    rw [← hextract]
    exact if_congr (and_congr_right fun _ => acceptIndala224_bitsOf acc) rfl rfl
  case frame =>
    intro F marked
    have hlen : F.length = 224 := length_frameIndala224 id
    have hextract : extractIndala224 F = id := extractIndala224_frameIndala224 hid
    have hmarked : acceptIndala224 F = true ↔ marked := acceptIndala224_frameIndala224 id
    rw [← hmarked, Bool.not_eq_true]
    refine ⟨fun hsilent => ?_, fun hS => ?_⟩
    · have hrun := feedBits_slideBit_frame (by decide) le_rfl hlen hsilent
      rwa [hextract] at hrun
    · have hrun := feedBits_slideBit_of_cleared (accept := acceptIndala224) (extract := extractIndala224)
        (by decide) le_rfl hlen hS
      rwa [hextract] at hrun

end Sys2Proof.Machine
end

section
/-! PROOFS. FEED of a sample (R160, R170, R123): the demodulator's step, then on a bit the codec's rule. -/

namespace Sys2Proof.Machine

/-- FEED on an allocated slot stores what the variant's rule leaves, and RESP says whether it captured. -/
theorem exec_feedRow_eq {v : Variant} {s : State} {n : BitVec 4} {S : Slot} {data : BitVec 16} {r : Fed}
    (hpac : v ≠ .pac) (hS : s.allocated? n = some S) (hv : S.variant = v) (hrule : feedRule v data s.cfg S = r) :
    exec (feedRow v n data) s = .next { s with
      slots := s.slots.set n.toNat r.stored
      resp := if r.id.isSome then (if v = .paradox ∨ v = .indala224 then 0x30 else 0x10) else 0 } := by
  rw [exec_feedRow_of_allocated data hpac hS hv, hrule, feedResp_eq]
  rfl

/-- A slot of either Indala variant has the PSK1 window of its protocol (R45). -/
theorem pskWidth_of_variant (c : Config) {S : Slot} (hv : variantProt S.variant = .indala) :
    c.pskWidth S.prot = c.pskN := by
  rw [← variantProt_variant, hv]; rfl

/-- Settles O30: the variant's rule, by the demodulator it names. -/
theorem feedOfASampleRunsDemodulatorThenCodec : Obligations.FeedOfASampleRunsDemodulatorThenCodec := by
  unfold Obligations.FeedOfASampleRunsDemodulatorThenCodec
  intro s n d S hS ha fed fsk psk after
  have halloc : s.allocated? n = some S := allocated?_eq_some.mpr ⟨hS, ha⟩
  have hfsk (onBit : Bool → Slot → Fed) : feedFsk onBit d s.cfg S = fed ({ S with fsk := fsk.1 }, fsk.2) onBit := rfl
  have hpsk (onBit : Bool → Slot → Fed) (hprot : variantProt S.variant = .indala) :
      feedPsk onBit d s.cfg S = fed ({ S with psk := psk.1 }, psk.2) onBit :=
    congrArg (fun w => fed ({ S with psk := (pskStep w S.psk d).1 }, (pskStep w S.psk d).2) onBit)
      (pskWidth_of_variant s.cfg hprot)
  refine ⟨fun hv => ?ioprox, fun hv => ?paradox, fun hv => ?indala64, fun hv => ?indala224⟩
  case ioprox => exact exec_feedRow_eq (v := .ioprox) nofun halloc hv (hfsk ioproxBit)
  case paradox => exact exec_feedRow_eq (v := .paradox) nofun halloc hv (hfsk paradoxBit)
  case indala64 =>
    exact exec_feedRow_eq (v := .indala64) nofun halloc hv (hpsk (indala64Bit s.cfg.indala) (congrArg variantProt hv))
  case indala224 => exact exec_feedRow_eq (v := .indala224) nofun halloc hv (hpsk indala224Bit (congrArg variantProt hv))

end Sys2Proof.Machine
end

section
/-! PROOFS. The IOProx codec (45_ioprox.md): the layout of a frame, the check of a window, the preamble search over a
sequence of bits, and the decoding of a frame. -/

namespace Sys2Proof.Machine

/-! ### The checksum (R271) -/

theorem ioproxCks_eq (fac ver chi clo : Byte) : ioproxCks fac ver chi clo = 0xFF - (0xF0 + fac + ver + chi + clo) := by
  simp [ioproxCks, sumComp8]

theorem toNat_ioproxCks (fac ver chi clo : Byte) : (ioproxCks fac ver chi clo).toNat
    = 0xFF - (0xF0 + fac.toNat + ver.toNat + chi.toNat + clo.toNat) % 256 := by
  rw [ioproxCks, toNat_sumComp8]
  simp only [List.map_cons, List.map_nil, List.sum_cons, List.sum_nil, BitVec.reduceToNat]
  omega

/-! ### The frame (R272) -/

section Frame
variable (id : List Byte)

/-- A frame is the nine zeros and the window of 55 bits that its first 1 starts. -/
theorem frameIoprox_eq : frameIoprox id = List.replicate 9 false ++ true :: (frameIoprox id).drop 10 := rfl

theorem length_drop_frameIoprox : ((frameIoprox id).drop 10).length = 54 := by
  rw [List.length_drop, length_frameIoprox]

/-- The six bytes of a frame, at their positions. -/
theorem slice_frameIoprox :
    slice (frameIoprox id) 9 8 = bitsOf 8 (0xF0#8).toNat
    ∧ slice (frameIoprox id) 18 8 = bitsOf 8 (byteAt id 0).toNat
    ∧ slice (frameIoprox id) 27 8 = bitsOf 8 (byteAt id 1).toNat
    ∧ slice (frameIoprox id) 36 8 = bitsOf 8 (byteAt id 2).toNat
    ∧ slice (frameIoprox id) 45 8 = bitsOf 8 (byteAt id 3).toNat
    ∧ slice (frameIoprox id) 54 8
      = bitsOf 8 (ioproxCks (byteAt id 0) (byteAt id 1) (byteAt id 2) (byteAt id 3)).toNat := by
  simp [frameIoprox, stuffedByte, slice_cons_succ, slice_append_left, slice_append_right, slice_of_length]

/-- The stuff bits and the trailer are 1. -/
theorem bitAt_frameIoprox : ∀ t ∈ [17, 26, 35, 44, 53, 62, 63], bitAt (frameIoprox id) t = true := by
  simp [frameIoprox, stuffedByte, bitAt]

end Frame

/-- A byte's eight bits have its number. -/
theorem val_bitsOf_byte (b : Byte) : val (bitsOf 8 b.toNat) = b.toNat := by
  rw [val_bitsOf, Nat.mod_eq_of_lt b.isLt]

/-- Settles O48: each part of the frame stands at its position. -/
theorem ioproxFrameLayout : Obligations.IoproxFrameLayout := by
  unfold Obligations.IoproxFrameLayout
  intro fac ver chi clo x F
  obtain ⟨hsentinel, hfac, hver, hchi, hclo, hcks⟩ := slice_frameIoprox [fac, ver, chi, clo, x]
  refine ⟨rfl, ?sentinel, bitAt_frameIoprox _, ?fac, ?ver, ?chi, ?clo, ?cks⟩
  case sentinel => rw [hsentinel, val_bitsOf_byte]; rfl
  case fac => rw [hfac, val_bitsOf_byte]; rfl
  case ver => rw [hver, val_bitsOf_byte]; rfl
  case chi => rw [hchi, val_bitsOf_byte]; rfl
  case clo => rw [hclo, val_bitsOf_byte]; rfl
  case cks => rw [hcks, val_bitsOf_byte, toNat_ioproxCks]; rfl

/-! ### The check of a window (R274) -/

theorem windowByte_of_slice {W : List Bool} {k : Nat} {b : Byte} (h : slice W k 8 = bitsOf 8 b.toNat) :
    windowByte W k = b := by
  rw [windowByte, h, val_bitsOf_byte, BitVec.ofNat_toNat, BitVec.setWidth_eq]

theorem toNat_windowByte (W : List Bool) (k : Nat) : (windowByte W k).toNat = val (slice W k 8) := by
  have hlen : (slice W k 8).length ≤ 8 := List.length_take_le ..
  have hval : val (slice W k 8) < 2 ^ 8 := (val_lt _).trans_le (Nat.pow_le_pow_right (by decide) hlen)
  rw [windowByte, BitVec.toNat_ofNat, Nat.mod_eq_of_lt hval]

/-- The check of a window by the numbers of its fields. -/
theorem ioproxWindow_eq (W : List Bool) :
    let fac := val (slice W 9 8)
    let ver := val (slice W 18 8)
    let chi := val (slice W 27 8)
    let clo := val (slice W 36 8)
    let cks := val (slice W 45 8)
    ioproxWindow W = if val (slice W 0 8) = 0xF0 ∧ cks = 0xFF - (0xF0 + fac + ver + chi + clo) % 256
      then some ([fac, ver, chi, clo, cks].map (BitVec.ofNat 8)) else none := by
  simp only [ioproxWindow, ← BitVec.toNat_inj, toNat_ioproxCks, toNat_windowByte]
  rfl

/-- The window of a frame passes the check. -/
theorem ioproxWindow_frameIoprox (fac ver chi clo x : Byte) :
    ioproxWindow (true :: (frameIoprox [fac, ver, chi, clo, x]).drop 10)
      = some [fac, ver, chi, clo, 0xFF - (0xF0 + fac + ver + chi + clo)] := by
  obtain ⟨hsentinel, hfac, hver, hchi, hclo, hcks⟩ := slice_frameIoprox [fac, ver, chi, clo, x]
  have hdrop (k : Nat) : slice (true :: (frameIoprox [fac, ver, chi, clo, x]).drop 10) k 8
      = slice (frameIoprox [fac, ver, chi, clo, x]) (9 + k) 8 := by
    rw [slice, slice, ← List.drop_drop]
    rfl
  rw [ioproxWindow, windowByte_of_slice ((hdrop 0).trans hsentinel), windowByte_of_slice ((hdrop 9).trans hfac),
    windowByte_of_slice ((hdrop 18).trans hver), windowByte_of_slice ((hdrop 27).trans hchi),
    windowByte_of_slice ((hdrop 36).trans hclo), windowByte_of_slice ((hdrop 45).trans hcks), ← ioproxCks_eq]
  exact if_pos ⟨rfl, rfl⟩

/-! ### The search, bit by bit (R274) -/

section Search
variable {S : Slot} (hmode : S.ioprox.mode = .search)
include hmode

theorem ioproxBit_false_of_search : ioproxBit false S
    = ⟨{ S with ioprox := { S.ioprox with zrun := BitVec.ofNat 8 (min (S.ioprox.zrun.toNat + 1) 255) } }, none⟩ := by
  simp only [ioproxBit, hmode]
  rfl

theorem ioproxBit_true_of_short_run (h : S.ioprox.zrun.toNat < 8) :
    ioproxBit true S = ⟨{ S with ioprox := { S.ioprox with zrun := 0 } }, none⟩ := by
  simp only [ioproxBit, hmode]
  exact if_neg (Nat.not_le_of_lt h)

theorem ioproxBit_true_of_preamble (h : 8 ≤ S.ioprox.zrun.toNat) :
    ioproxBit true S = ⟨{ S with ioprox := ⟨.collect, S.ioprox.zrun, 1, 1⟩ }, none⟩ := by
  simp only [ioproxBit, hmode]
  exact if_pos h

end Search

/-! ### The search and the window, over a sequence of bits -/

/-- The slot with its codec in SEARCH after a run of z zeros. -/
def Slot.searching (S : Slot) (z : Nat) : Slot :=
  { S with ioprox := ⟨.search, BitVec.ofNat 8 (min z 255), 0, 0⟩ }

/-- The slot with its codec in COLLECT, holding the bits G of the window. -/
def Slot.collecting (S : Slot) (zrun : BitVec 8) (G : List Bool) : Slot :=
  { S with ioprox := ⟨.collect, zrun, BitVec.ofNat 55 (val G), BitVec.ofNat 6 G.length⟩ }

section Runs
variable {S : Slot}

/-- A cleared codec is in SEARCH after no zeros. -/
theorem searching_zero (hS : S.ioprox = ⟨.search, 0, 0, 0⟩) : S.searching 0 = S :=
  congrArg (fun c => { S with ioprox := c }) hS.symm

theorem zrun_searching (z : Nat) : (S.searching z).ioprox.zrun.toNat = min z 255 := toNat_ofNat_min (by decide)

theorem ioproxBit_searching_false (z : Nat) : ioproxBit false (S.searching z) = ⟨S.searching (z + 1), none⟩ := by
  have hrun : min (min z 255 + 1) 255 = min (z + 1) 255 := by omega
  rw [ioproxBit_false_of_search rfl, zrun_searching, hrun]
  rfl

theorem ioproxBit_searching_true {z : Nat} (hz : z < 8) : ioproxBit true (S.searching z) = ⟨S.searching 0, none⟩ := by
  rw [ioproxBit_true_of_short_run rfl (by rw [zrun_searching]; omega)]
  rfl

/-- A 1 after 8 or more zeros is the first bit of the window. -/
theorem ioproxBit_searching_preamble {z : Nat} (hz : 8 ≤ z) :
    ∃ zrun, ioproxBit true (S.searching z) = ⟨S.collecting zrun [true], none⟩ :=
  ⟨_, ioproxBit_true_of_preamble rfl (by rw [zrun_searching]; omega)⟩

/-- The bits shift into a window that is not full; the 55th completes it and the search starts again. -/
theorem ioproxBit_collecting {G : List Bool} (zrun : BitVec 8) (b : Bool) (hG : G.length < 55) :
    ioproxBit b (S.collecting zrun G) = if G.length + 1 < 55 then ⟨S.collecting zrun (G ++ [b]), none⟩
      else ⟨S.searching 0, ioproxWindow (G ++ [b])⟩ := by
  have hval : val G < 2 ^ 55 := (val_lt G).trans (Nat.pow_lt_pow_right (by decide) hG)
  have hval' : val (G ++ [b]) < 2 ^ 55 :=
    (val_lt _).trans_le (Nat.pow_le_pow_right (by decide) (by simpa using hG))
  have hwin : BitVec.ofNat 55 (val G) <<< 1 ||| (BitVec.ofBool b).zeroExtend 55 = BitVec.ofNat 55 (val (G ++ [b])) :=
    BitVec.eq_of_toNat_eq (by
      rw [toNat_shiftIn, BitVec.toNat_ofNat, BitVec.toNat_ofNat, Nat.mod_eq_of_lt hval, val_append_singleton])
  have hcnt : (BitVec.ofNat 6 G.length).toNat = G.length := by rw [BitVec.toNat_ofNat]; omega
  simp only [ioproxBit, Slot.collecting, hwin, hcnt, BitVec.toNat_ofNat, Nat.mod_eq_of_lt hval',
    List.length_append, List.length_singleton]
  split
  next => rfl
  next hfull =>
    have hbits := bitsOf_val (G ++ [b])
    rw [List.length_append, List.length_singleton, show G.length + 1 = 55 by omega] at hbits
    rw [hbits]
    rfl

/-- A run of zeros is counted. -/
theorem feedBits_searching_zeros (z k : Nat) :
    feedBits ioproxBit (List.replicate k false) (S.searching z) = (S.searching (z + k), []) := by
  induction k generalizing z with
  | zero => rfl
  | succ k ih =>
    rw [List.replicate_succ, feedBits, ioproxBit_searching_false, ih, Nat.add_right_comm]
    rfl

/-- Bits without a preamble start nothing: z zeros were seen, and neither they and the bits P hold a preamble nor do
they end in a 0. -/
theorem feedBits_searching_silent {P : List Bool} {z : Nat}
    (hnone : ¬ (List.replicate 8 false ++ [true]) <:+: (List.replicate z false ++ P))
    (hlast : (List.replicate z false ++ P).getLast? ≠ some false) :
    feedBits ioproxBit P (S.searching z) = (S.searching 0, []) := by
  induction P generalizing z with
  | nil =>
    cases z with
    | zero => rfl
    | succ z => simp [List.replicate_succ'] at hlast
  | cons b P ih =>
    cases b with
    | false =>
      have hshift : List.replicate z false ++ false :: P = List.replicate (z + 1) false ++ P := by
        rw [List.replicate_succ', List.append_cons]
      rw [hshift] at hnone hlast
      rw [feedBits, ioproxBit_searching_false, ih hnone hlast]
      rfl
    | true =>
      have hz : z < 8 := by
        by_contra hlong
        refine hnone ⟨List.replicate (z - 8) false, P, ?_⟩
        rw [← List.append_assoc, List.replicate_append_replicate, List.append_assoc, List.singleton_append,
          Nat.sub_add_cancel (by omega)]
      have hsplit := List.append_cons (List.replicate z false) true P
      have hnone' : ¬ (List.replicate 8 false ++ [true]) <:+: (List.replicate 0 false ++ P) := fun hin =>
        hnone (hsplit ▸ hin.trans (List.suffix_append _ P).isInfix)
      have hlast' : (List.replicate 0 false ++ P).getLast? ≠ some false := fun hend =>
        hlast (by rw [hsplit, List.getLast?_append, show P.getLast? = some false from hend]; rfl)
      rw [feedBits, ioproxBit_searching_true hz, ih hnone' hlast']
      rfl

/-- Fewer than 55 bits stay in the window. -/
theorem feedBits_collecting {F G : List Bool} (zrun : BitVec 8) (h : G.length + F.length < 55) :
    feedBits ioproxBit F (S.collecting zrun G) = (S.collecting zrun (G ++ F), []) := by
  induction F generalizing G with
  | nil => rw [List.append_nil]; rfl
  | cons b F ih =>
    rw [List.length_cons] at h
    rw [feedBits, ioproxBit_collecting zrun b (by omega), if_pos (by omega),
      ih (by rw [List.length_append, List.length_singleton]; omega), List.append_cons G b F]
    rfl

/-- A preamble and fewer than 55 bits of its window capture nothing. -/
theorem feedBits_preamble_short {k : Nat} {F : List Bool} (hk : 8 ≤ k) (hF : F.length < 54) :
    ∃ zrun, feedBits ioproxBit (List.replicate k false ++ true :: F) (S.searching 0)
      = (S.collecting zrun (true :: F), []) := by
  obtain ⟨zrun, hbit⟩ := ioproxBit_searching_preamble (S := S) hk
  refine ⟨zrun, ?_⟩
  rw [feedBits_append, feedBits_searching_zeros, Nat.zero_add, feedBits, hbit,
    feedBits_collecting zrun (by rw [List.length_singleton]; omega)]
  rfl

/-- A preamble and its window: the check decides at the last bit, and the search starts again. -/
theorem feedBits_preamble_window {k : Nat} {F : List Bool} (hk : 8 ≤ k) (hF : F.length = 54) :
    feedBits ioproxBit (List.replicate k false ++ true :: F) (S.searching 0)
      = (S.searching 0, (ioproxWindow (true :: F)).toList) := by
  obtain rfl | ⟨G, b, rfl⟩ := List.eq_nil_or_concat' F
  · cases hF
  · have hG : G.length + 1 = 54 := by rwa [List.length_append, List.length_singleton] at hF
    obtain ⟨zrun, hrun⟩ := feedBits_preamble_short (S := S) hk (F := G) (by omega)
    have hsplit : List.replicate k false ++ true :: (G ++ [b]) = (List.replicate k false ++ true :: G) ++ [b] := by
      rw [List.append_assoc, List.cons_append]
    rw [hsplit, feedBits_append, hrun, feedBits_singleton,
      ioproxBit_collecting zrun b (by rw [List.length_cons]; omega), if_neg (by rw [List.length_cons]; omega)]
    rfl

end Runs

/-- Settles O42: the three cases of the search; then the bits before the preamble leave the codec cleared, and the
window is checked by the numbers of its fields. -/
theorem ioproxPreambleStartsTheWindow : Obligations.IoproxPreambleStartsTheWindow := by
  unfold Obligations.IoproxPreambleStartsTheWindow
  refine ⟨fun S hmode => ⟨ioproxBit_false_of_search hmode, ioproxBit_true_of_short_run hmode,
    ioproxBit_true_of_preamble hmode⟩, ?_⟩
  intro S P k F hS hnone hlast hk hF W fac ver chi clo cks
  have hsilent : feedBits ioproxBit P S = (S, []) := by
    have hrun := feedBits_searching_silent (S := S) (z := 0) hnone hlast
    rwa [searching_zero hS] at hrun
  have hwindow := feedBits_preamble_window (S := S) hk hF
  rw [searching_zero hS, ioproxWindow_eq] at hwindow
  refine ⟨hsilent, ?_⟩
  rw [List.append_assoc, feedBits_append, hsilent, hwindow, List.nil_append, apply_ite Option.toList]
  rfl

/-- Settles O39: the frame is a preamble of nine zeros and a window that passes the check. -/
theorem ioproxDecodesItsOwnFrames : Obligations.IoproxDecodesItsOwnFrames := by
  unfold Obligations.IoproxDecodesItsOwnFrames
  intro fac ver chi clo x S hS
  have hlen := length_drop_frameIoprox [fac, ver, chi, clo, x]
  rw [frameIoprox_eq]
  constructor
  · have hrun := feedBits_preamble_window (S := S) (k := 9) (by decide) hlen
    rwa [searching_zero hS, ioproxWindow_frameIoprox] at hrun
  · obtain ⟨zrun, hrun⟩ := feedBits_preamble_short (S := S) (k := 9) (by decide)
      (F := ((frameIoprox [fac, ver, chi, clo, x]).drop 10).take 53) (by rw [List.length_take]; omega)
    rw [searching_zero hS] at hrun
    exact congrArg Prod.snd hrun

end Sys2Proof.Machine
end

section
/-! PROOFS. The Jablotron codec (46_jablotron.md): the number of a frame, the window test and its single-bit changes,
the bit rule and FEED, then the decoding of a frame, FEED by FEED. -/

namespace Sys2Proof.Machine

/-! ### The checksum and the frame (R291, R292) -/

theorem jabChk_five (a b c d e : Byte) : jabChk [a, b, c, d, e] = a ^^^ b ^^^ c ^^^ d ^^^ e ^^^ 0x3A := by
  simp [jabChk, xor8]

/-- Settles O49: the three parts of the frame, each by its number and its width. -/
theorem jablotronFrameValue : Obligations.JablotronFrameValue := by
  unfold Obligations.JablotronFrameValue
  intro a b c d e
  have hfive : (List.range 5).map (byteAt [a, b, c, d, e]) = [a, b, c, d, e] := rfl
  have hid : beNat [a, b, c, d, e] < 2 ^ 40 := beNat_lt [a, b, c, d, e]
  refine ⟨length_frameJablotron _, ?_⟩
  rw [frameJablotron, hfive, jabChk_five, val_append, val_append, val_bitsOf, val_bitsOf, val_bitsOf_byte,
    Nat.mod_eq_of_lt hid, length_bitsOf, length_bitsOf]
  simp only [beNat_cons, beNat_nil, List.length_cons, List.length_nil]
  omega

/-! ### The window test (R293) -/

section Window
variable {x : Nat}

/-- A field of a window is a quotient of the window's number. -/
theorem extractLsb'_ofNat_window (hx : x < 2 ^ 64) (lo len : Nat) :
    (BitVec.ofNat 64 x).extractLsb' lo len = BitVec.ofNat len (x / 2 ^ lo) := by
  rw [BitVec.extractLsb', BitVec.toNat_ofNat, Nat.mod_eq_of_lt hx, Nat.shiftRight_eq_div_pow]

theorem jablotronId_ofNat (hx : x < 2 ^ 64) :
    jablotronId (BitVec.ofNat 64 x) = [4, 3, 2, 1, 0].map fun k => BitVec.ofNat 8 (x / 2 ^ (8 + 8 * k)) := by
  simp only [jablotronId, extractLsb'_ofNat_window hx, List.map_cons, List.map_nil]

/-- The preamble and the checksum of a window, by its number. -/
theorem acceptJablotron_ofNat (hx : x < 2 ^ 64) : acceptJablotron (BitVec.ofNat 64 x) = true ↔
    x / 2 ^ 48 = 0xFFFF ∧ BitVec.ofNat 8 x = jabChk (jablotronId (BitVec.ofNat 64 x)) := by
  have hpreamble : x / 2 ^ 48 < 2 ^ 16 := by omega
  rw [acceptJablotron, Bool.and_eq_true, decide_eq_true_eq, decide_eq_true_eq, extractLsb'_ofNat_window hx,
    extractLsb'_ofNat_window hx, ← BitVec.toNat_inj, BitVec.toNat_ofNat, Nat.mod_eq_of_lt hpreamble, pow_zero,
    Nat.div_one]
  rfl

end Window

theorem exists_five_of_length {id : List Byte} (hid : id.length = 5) : ∃ a b c d e, id = [a, b, c, d, e] :=
  match id, hid with
  | [a, b, c, d, e], _ => ⟨a, b, c, d, e, rfl⟩

/-- A frame's window holds the frame's identifier. -/
theorem jablotronId_frameJablotron {id : List Byte} (hid : id.length = 5) :
    jablotronId (BitVec.ofNat 64 (val (frameJablotron id))) = id := by
  obtain ⟨a, b, c, d, e, rfl⟩ := exists_five_of_length hid
  obtain ⟨hlen, hval⟩ := jablotronFrameValue a b c d e
  rw [jablotronId_ofNat (hlen ▸ val_lt _), hval]
  simp only [List.map_cons, List.map_nil, List.cons.injEq, ← BitVec.toNat_inj, BitVec.toNat_ofNat, and_true]
  omega

/-- A frame's window passes the test. -/
theorem acceptJablotron_frameJablotron {id : List Byte} (hid : id.length = 5) :
    acceptJablotron (BitVec.ofNat 64 (val (frameJablotron id))) = true := by
  obtain ⟨a, b, c, d, e, rfl⟩ := exists_five_of_length hid
  obtain ⟨hlen, hval⟩ := jablotronFrameValue a b c d e
  rw [acceptJablotron_ofNat (hlen ▸ val_lt _), jablotronId_frameJablotron hid, jabChk_five, ← BitVec.toNat_inj,
    BitVec.toNat_ofNat, hval]
  omega

/-! ### One changed bit (R293) -/

theorem xor8_map_xor {α : Type} (f g : α → Byte) (l : List α) :
    xor8 (l.map fun k => f k ^^^ g k) = xor8 (l.map f) ^^^ xor8 (l.map g) := by
  induction l with
  | nil => exact BitVec.xor_self.symm
  | cons k l ih =>
    simp only [List.map_cons, xor8_cons, ih]
    ac_rfl

/-- The exclusive or of a window's six low bytes: the card id and the checksum. -/
def jablotronResidue (acc : BitVec 64) : Byte :=
  xor8 ([40, 32, 24, 16, 8, 0].map fun lo => acc.extractLsb' lo 8)

theorem jablotronResidue_xor (x y : BitVec 64) :
    jablotronResidue (x ^^^ y) = jablotronResidue x ^^^ jablotronResidue y := by
  simp only [jablotronResidue, BitVec.extractLsb'_xor, xor8_map_xor]

/-- The checksum is right when the six bytes cancel to its constant (R291). -/
theorem acceptJablotron_iff (acc : BitVec 64) :
    acceptJablotron acc = true ↔ acc.extractLsb' 48 16 = 0xFFFF ∧ jablotronResidue acc = 0x3A := by
  have hresidue : jablotronResidue acc = xor8 (jablotronId acc) ^^^ acc.extractLsb' 0 8 :=
    (xor8_append (jablotronId acc) [acc.extractLsb' 0 8]).trans (by simp [xor8])
  rw [acceptJablotron, Bool.and_eq_true, decide_eq_true_eq, decide_eq_true_eq, jabChk, hresidue,
    ← BitVec.xor_right_inj (x := acc.extractLsb' 0 8) (xor8 (jablotronId acc)), ← BitVec.xor_assoc, BitVec.xor_self,
    BitVec.zero_xor]
  rfl

/-- A single bit among the six bytes has nothing to cancel it. -/
theorem jablotronResidue_twoPow_ne_zero : ∀ t < 48, jablotronResidue (BitVec.twoPow 64 t) ≠ 0 := by decide

/-- Settles O45: a flip from bit 48 up changes the preamble; below, it changes what the six bytes come to. -/
theorem jablotronRejectsSingleBitChanges : Obligations.JablotronRejectsSingleBitChanges := by
  unfold Obligations.JablotronRejectsSingleBitChanges
  intro acc t ht haccept
  obtain ⟨hpreamble, hresidue⟩ := (acceptJablotron_iff acc).mp haccept
  rw [← Bool.not_eq_true, acceptJablotron_iff, ← hpreamble, extractLsb'_xor_twoPow_eq_iff acc 48 16 ht,
    jablotronResidue_xor, hresidue]
  rintro ⟨hout, hsame⟩
  have hzero : jablotronResidue (BitVec.twoPow 64 t) = 0 := by simpa using hsame
  exact jablotronResidue_twoPow_ne_zero t (by omega) hzero

/-! ### The bit rule (R293) -/

/-- The bit rule by the window's number: the accumulator doubles and takes the bit, modulo 2^64. -/
theorem jablotronBit_eq (b : Bool) (S : Slot) :
    let acc := (2 * S.jablotron.acc.toNat + b.toNat) % 2 ^ 64
    let cnt := min (S.jablotron.cnt.toNat + 1) 64
    jablotronBit b S = if cnt = 64 ∧ acceptJablotron (BitVec.ofNat 64 acc) then
        ⟨{ S with jablotron := ⟨0, 0⟩ }, some (jablotronId (BitVec.ofNat 64 acc))⟩
      else ⟨{ S with jablotron := ⟨BitVec.ofNat 64 acc, BitVec.ofNat 7 cnt⟩ }, none⟩ := by
  intro acc cnt
  have hacc : S.jablotron.acc <<< 1 ||| (BitVec.ofBool b).zeroExtend 64 = BitVec.ofNat 64 acc :=
    BitVec.eq_of_toNat_eq (by rw [toNat_shiftIn, BitVec.toNat_ofNat, Nat.mod_mod])
  rw [jablotronBit, hacc]
  rfl

/-- The variant's rule is the bit rule behind BP_STEP. -/
theorem feedRule_jablotron (data : BitVec 16) (c : Config) (S : Slot) : feedRule .jablotron data c S
    = feedBiphase (fun T => { T with jablotron := JablotronCodec.zero }) jablotronBit data.toNat S := rfl

/-- Settles O28: BP_STEP's answer by the interval, then the bit rule by the window's number. -/
theorem feedJablotronFollowsItsRule : Obligations.FeedJablotronFollowsItsRule := by
  unfold Obligations.FeedJablotronFollowsItsRule
  intro s n d S hS ha hp
  have halloc : s.allocated? n = some S := allocated?_eq_some.mpr ⟨hS, ha⟩
  have hv : S.variant = .jablotron := by rw [Slot.variant, hp, variantOf]
  have hpac : Variant.jablotron ≠ .pac := nofun
  have hfeed := feedRule_jablotron d s.cfg S
  refine ⟨fun hi => ?reset, fun hsync hlow hhigh => ?silent, fun b y hi => ?bit⟩
  case reset =>
    exact exec_feedRow_without_capture hpac halloc hv (hfeed.trans (feedBiphase_of_reset _ (bpStep_reset hi)))
  case silent =>
    exact exec_feedRow_without_capture hpac halloc hv
      (hfeed.trans (feedBiphase_of_silent _ (bpStep_silent hsync hlow hhigh)))
  case bit =>
    intro acc cnt id
    have hlt : acc < 2 ^ 64 := Nat.mod_lt _ (by decide)
    have hrule := (hfeed.trans (feedBiphase_of_bit _ (bpStep_bit hi))).trans (jablotronBit_eq b { S with sync := y })
    have hid : jablotronId (BitVec.ofNat 64 acc) = id := jablotronId_ofNat hlt
    have hchk : jabChk id = id[0]! ^^^ id[1]! ^^^ id[2]! ^^^ id[3]! ^^^ id[4]! ^^^ 0x3A := jabChk_five _ _ _ _ _
    have htest := acceptJablotron_ofNat hlt
    rw [hid, hchk] at htest
    split
    next hcapture =>
      obtain ⟨hfull, haccept⟩ := hcapture
      have hexec := exec_feedRow_of_capture hpac (by decide) halloc hv
        (hrule.trans (if_pos ⟨hfull, htest.mpr haccept⟩))
      rwa [hid] at hexec
    next hnone =>
      exact exec_feedRow_without_capture hpac halloc hv
        (hrule.trans (if_neg fun ⟨hfull, haccept⟩ => hnone ⟨hfull, htest.mp haccept⟩))

/-! ### Decoding a frame (R151, R153) -/

/-- The slot after the sync interval and the intervals of the bits F, from its START state. -/
def Slot.jablotronFilled (S : Slot) (F : List Bool) : Slot :=
  { S with sync := true, jablotron := ⟨BitVec.ofNat 64 (val F), BitVec.ofNat 7 F.length⟩ }

section Decoding
variable {S : Slot} {F : List Bool}

theorem jablotronFilled_append_singleton (b : Bool) : S.jablotronFilled (F ++ [b])
    = { S with sync := true, jablotron := ⟨BitVec.ofNat 64 (val (F ++ [b])), BitVec.ofNat 7 (F.length + 1)⟩ } := by
  rw [Slot.jablotronFilled, List.length_append, List.length_singleton]

/-- The bit rule on a codec that holds the bits F since it was cleared. -/
theorem jablotronBit_filled (b : Bool) (hF : F.length < 64) :
    jablotronBit b (S.jablotronFilled F) =
      if F.length + 1 = 64 ∧ acceptJablotron (BitVec.ofNat 64 (val (F ++ [b]))) then
        ⟨{ S with sync := true, jablotron := ⟨0, 0⟩ }, some (jablotronId (BitVec.ofNat 64 (val (F ++ [b]))))⟩
      else ⟨S.jablotronFilled (F ++ [b]), none⟩ := by
  have hval : val F < 2 ^ 64 := (val_lt F).trans (Nat.pow_lt_pow_right (by decide) hF)
  have hval' : val (F ++ [b]) < 2 ^ 64 :=
    (val_lt _).trans_le (Nat.pow_le_pow_right (by decide) (by simpa using hF))
  have hacc : (2 * (S.jablotronFilled F).jablotron.acc.toNat + b.toNat) % 2 ^ 64 = val (F ++ [b]) := by
    rw [Slot.jablotronFilled, BitVec.toNat_ofNat, Nat.mod_eq_of_lt hval, ← val_append_singleton,
      Nat.mod_eq_of_lt hval']
  have hcnt : min ((S.jablotronFilled F).jablotron.cnt.toNat + 1) 64 = F.length + 1 := by
    rw [Slot.jablotronFilled, BitVec.toNat_ofNat]
    omega
  rw [jablotronBit_eq, hacc, hcnt, jablotronFilled_append_singleton]
  rfl

/-- FEED on a JABLOTRON slot answers what the variant's rule leaves, and whether it captured. -/
theorem feedReply_of_jablotron {c : Config} {data : BitVec 16} {r : Fed} (ha : S.alloc = true)
    (hp : S.prot = .jablotron) (hrule : feedRule .jablotron data c S = r) :
    feedReply c data (some S) = (if r.id.isSome then 0x10 else 0, some r.stored) := by
  have hv : S.variant = .jablotron := by rw [Slot.variant, hp, variantOf]
  rw [feedReply_of_rule ha (by rw [hv]; nofun), hv, hrule, feedResp_eq]
  rfl

theorem bpStim_append_singleton (b : Bool) : bpStim (F ++ [b]) = bpStim F ++ [if b then 16 else 32] := by
  simp [bpStim]

theorem take_bpStim (k : Nat) : (bpStim F).take (k + 1) = bpStim (F.take k) := by simp [bpStim, List.map_take]

section Stimulus
variable (c : Config) (r : Word) (ha : S.alloc = true) (hp : S.prot = .jablotron)
include ha hp

/-- In sync, the interval of a bit in BP_STIM runs the bit rule on that bit. -/
theorem feedReply_jablotronFilled (b : Bool) : feedReply c (if b then 16 else 32) (some (S.jablotronFilled F))
    = (if (jablotronBit b (S.jablotronFilled F)).id.isSome then 0x10 else 0,
      some (jablotronBit b (S.jablotronFilled F)).stored) := by
  have hstep : bpStep (S.jablotronFilled F).sync (if b then 16 else 32 : BitVec 16).toNat
      = ⟨some b, false, true⟩ := by cases b <;> rfl
  exact feedReply_of_jablotron ha hp ((feedRule_jablotron _ _ _).trans (feedBiphase_of_bit _ hstep))

variable (hsync : S.sync = false) (hS : S.jablotron = ⟨0, 0⟩)
include hsync hS

/-- The first interval of BP_STIM only gains sync (R151). -/
theorem feedReply_jablotron_sync : feedReply c 16 (some S) = (0, some (S.jablotronFilled [])) := by
  have hstep : bpStep S.sync (16 : BitVec 16).toNat = ⟨none, false, true⟩ :=
    bpStep_silent hsync (by decide) (by decide)
  have hstart : { S with sync := true } = S.jablotronFilled [] :=
    congrArg (fun x => { S with sync := true, jablotron := x }) hS
  rw [feedReply_of_jablotron ha hp ((feedRule_jablotron _ _ _).trans (feedBiphase_of_silent _ hstep)), hstart]
  rfl

/-- FEED by FEED, BP_STIM of fewer than 64 bits fills the accumulator and captures nothing. -/
theorem foldl_feedReply_bpStim_short (hF : F.length < 64) :
    (bpStim F).foldl (fun q x => feedReply c x q.2) (r, some S) = (0, some (S.jablotronFilled F)) := by
  induction F using List.reverseRecOn with
  | nil => exact feedReply_jablotron_sync c ha hp hsync hS
  | append_singleton F b ih =>
    rw [List.length_append, List.length_singleton] at hF
    have hbit : jablotronBit b (S.jablotronFilled F) = ⟨S.jablotronFilled (F ++ [b]), none⟩ := by
      rw [jablotronBit_filled b (by omega), if_neg (by omega)]
    rw [bpStim_append_singleton, List.foldl_concat, ih (by omega), feedReply_jablotronFilled c ha hp, hbit]
    rfl

/-- FEED by FEED, BP_STIM of 64 bits that pass the window test captures at the last bit, and the codec is re-armed. -/
theorem foldl_feedReply_bpStim_frame (hF : F.length = 64)
    (haccept : acceptJablotron (BitVec.ofNat 64 (val F)) = true) :
    (bpStim F).foldl (fun q x => feedReply c x q.2) (r, some S) = (0x10, some { S with
      sync := true, dataValid := true, idBuf := padId (jablotronId (BitVec.ofNat 64 (val F))) }) := by
  obtain rfl | ⟨G, b, rfl⟩ := List.eq_nil_or_concat' F
  · cases hF
  · have hG : G.length + 1 = 64 := by simpa using hF
    have hbit := jablotronBit_filled (S := S) b (show G.length < 64 by omega)
    rw [if_pos ⟨hG, haccept⟩, ← hS] at hbit
    rw [bpStim_append_singleton, List.foldl_concat, foldl_feedReply_bpStim_short c r ha hp hsync hS (by omega),
      feedReply_jablotronFilled c ha hp, hbit]
    rfl

end Stimulus
end Decoding

/-- The first k of a sequence of FEEDs fold `feedReply` over the values they feed. -/
theorem run_feedWords_take (n : BitVec 4) {k : Nat} {xs : List (BitVec 16)} {s : State}
    (h : s.host = feedWords n xs) (hk : k ≤ xs.length) :
    ∃ t, Host.Core.run Sys2Proof.core k s = .next t
      ∧ t.feedView n = (xs.take k).foldl (fun q x => feedReply s.cfg x q.2) (s.feedView n) := by
  induction k generalizing s xs with
  | zero => exact ⟨s, rfl, rfl⟩
  | succ k ih =>
    cases xs with
    | nil => cases hk
    | cons x xs =>
      obtain ⟨u, hstep, hview, hcfg, hhost⟩ := step_feedWord h
      obtain ⟨t, hrun, ht⟩ := ih hhost (Nat.le_of_succ_le_succ hk)
      exact ⟨t, (run_succ_of_next hstep).trans hrun, by rw [ht, hview, hcfg]; rfl⟩

/-- Settles O38: the runs fold the FEEDs' answers; before the 64th bit of the frame the window is not full, and at
it the window passes the test. -/
theorem jablotronDecodesItsOwnFrames : Obligations.JablotronDecodesItsOwnFrames := by
  unfold Obligations.JablotronDecodesItsOwnFrames
  intro s n S id hid hslot ha hp hsync hS hhost
  have hlen := length_frameJablotron id
  have hview : s.feedView n = (s.resp, some S) := by rw [State.feedView, hslot]
  have hstim : (bpStim (frameJablotron id)).length = 65 := by simp [bpStim, hlen]
  refine ⟨fun k hlow hhigh => ?before, ?last⟩
  case before =>
    obtain ⟨j, rfl⟩ := Nat.exists_eq_add_of_le' hlow
    obtain ⟨t, hrun, ht⟩ := run_feedWords_take n hhost (show j + 1 ≤ _ by omega)
    rw [hview, take_bpStim,
      foldl_feedReply_bpStim_short _ _ ha hp hsync hS (by rw [List.length_take]; omega)] at ht
    exact ⟨t, hrun, congrArg Prod.fst ht⟩
  case last =>
    obtain ⟨t, hrun, ht⟩ := run_feedWords n _ s hhost
    rw [hview, foldl_feedReply_bpStim_frame _ _ ha hp hsync hS hlen (acceptJablotron_frameJablotron hid),
      jablotronId_frameJablotron hid] at ht
    rw [hstim] at hrun
    exact ⟨t, hrun, congrArg Prod.fst ht, congrArg Prod.snd ht⟩

end Sys2Proof.Machine
end

section
/-! SUPPORT. Bits that shift into an accumulator one after another, and a pattern sought in the newest of them
(R40, R315): what the accumulator holds, when it ends in the pattern, and when the pattern is found first. -/

namespace Sys2Proof.Machine

/-- The accumulator keeps the newest bits of the whole sequence, whatever its width. -/
theorem shiftIn_ofNat_val {w : Nat} (G : List Bool) (b : Bool) :
    BitVec.ofNat w (val G) <<< 1 ||| (BitVec.ofBool b).zeroExtend w = BitVec.ofNat w (val (G ++ [b])) :=
  BitVec.eq_of_toNat_eq (by
    rw [toNat_shiftIn, BitVec.toNat_ofNat, BitVec.toNat_ofNat, val_append_singleton, Nat.add_mod, Nat.mul_mod_mod,
      ← Nat.add_mod])

/-- Different sequences of the same length have different numbers. -/
theorem val_injective_of_length {F G : List Bool} (hlen : F.length = G.length) (hval : val F = val G) : F = G := by
  rw [← bitsOf_val F, hlen, hval, bitsOf_val]

/-- A sequence ends in a pattern exactly when its number ends in the pattern's. -/
theorem suffix_iff_val {W G : List Bool} : W <:+ G ↔ W.length ≤ G.length ∧ val G % 2 ^ W.length = val W := by
  constructor
  · rintro ⟨A, rfl⟩
    refine ⟨by simp, ?_⟩
    rw [val_append, Nat.mul_add_mod_self_right, Nat.mod_eq_of_lt (val_lt W)]
  · rintro ⟨hlen, hval⟩
    obtain ⟨A, B, rfl, hB⟩ : ∃ A B, G = A ++ B ∧ B.length = W.length :=
      ⟨_, _, (List.take_append_drop (G.length - W.length) G).symm, by rw [List.length_drop]; omega⟩
    rw [val_append, ← hB, Nat.mul_add_mod_self_right, Nat.mod_eq_of_lt (val_lt B)] at hval
    exact ⟨A, by rw [val_injective_of_length hB hval]⟩

/-- A pattern that does not overlap itself is found first at its end. -/
theorem not_infix_append_dropLast {W P : List Bool} (hpos : W ≠ [])
    (hoverlap : ∀ k < W.length, W.drop (W.length - k) = W.take k → k = 0) (hnone : ¬ W <:+: P) :
    ¬ W <:+: P ++ W.dropLast := by
  have hlen := List.length_pos_iff.mpr hpos
  rw [List.infix_append_iff]
  rintro (hin | hin | ⟨A, B, hsplit, hA, hB⟩)
  · exact hnone hin
  · have hle := hin.length_le
    rw [List.length_dropLast] at hle
    omega
  · have hle := hB.length_le
    rw [List.length_dropLast] at hle
    have htake : B = W.take B.length := List.prefix_iff_eq_take.mp (hB.trans W.dropLast_prefix)
    have hdrop : W.drop (W.length - B.length) = B := by
      rw [hsplit, List.length_append, Nat.add_sub_cancel, List.drop_left]
    have hB0 : B = [] := List.length_eq_zero_iff.mp (hoverlap _ (by omega) (hdrop.trans htake))
    rw [hB0, List.append_nil] at hsplit
    exact hnone (hsplit ▸ hA.isInfix)

end Sys2Proof.Machine
end

section
/-! PROOFS. The Paradox codec (47_paradox.md): the bits of a frame, the preamble search over a sequence of bits, and
the unchecked collection behind it. -/

namespace Sys2Proof.Machine

/-! ### The frame (R311 to R313) -/

/-- A frame reads six bytes of an identifier, and an identifier of six bytes has no other. -/
theorem paradoxBody_eq (c : Config) {id : List Byte} (hid : id.length = 6) :
    paradoxBody c id = [c.paradoxSync0, c.paradoxSync1, c.paradoxSync2] ++ id := by
  have hbytes : (List.range 6).map (byteAt id) = id :=
    List.ext_getElem (by simp [hid]) fun k _ hk => by simp [byteAt, hk]
  rw [paradoxBody, hbytes]

theorem length_paradoxBuffer (c : Config) (id : List Byte) : (paradoxBuffer c id).length = 12 := by
  simp [paradoxBuffer, paradoxBody]

/-- Rotated left by 4: bit t is bit t + 4, around the end (R312). -/
theorem bitAt_rotate4 {bits : List Bool} {t : Nat} (hlen : 4 ≤ bits.length) (ht : t < bits.length) :
    bitAt (rotate4 bits) t = bitAt bits ((t + 4) % bits.length) := by
  have hdrop : (bits.drop 4).length = bits.length - 4 := List.length_drop
  rcases Nat.lt_or_ge (t + 4) bits.length with hlt | hge
  · rw [rotate4, bitAt_append_left (by omega), Nat.mod_eq_of_lt hlt]
    simp [bitAt, Nat.add_comm]
  · have hpos : (t + 4) % bits.length = t - (bits.length - 4) := by
      rw [Nat.mod_eq_sub_mod hge, Nat.mod_eq_of_lt (by omega)]
      omega
    rw [rotate4, bitAt_append_right (by omega), hdrop, hpos]
    simp [bitAt, show t - (bits.length - 4) < 4 by omega]

/-- Settles O50: bit t of the frame is bit t + 4, around the end, of the buffer's 96 bits. -/
theorem paradoxFrameIsTheRotatedBuffer : Obligations.ParadoxFrameIsTheRotatedBuffer := by
  unfold Obligations.ParadoxFrameIsTheRotatedBuffer
  intro c id hid body B
  have hB : paradoxBuffer c id = B := by rw [paradoxBuffer, paradoxBody_eq c hid]; rfl
  have hlen : (bitsOfBytes B).length = 96 := by rw [length_bitsOfBytes, ← hB, length_paradoxBuffer]
  refine ⟨length_frameParadox c id, fun t ht => ?_⟩
  rw [frameParadox, hB, bitAt_rotate4 (by omega) (by omega), hlen,
    bitAt_bitsOfBytes (by rw [← length_bitsOfBytes, hlen]; omega)]
  rfl

/-! ### The captured bytes (R315) -/

/-- Byte k of a full buffer is the number of its eight bits. -/
theorem paradoxByte_ofNat_val {W : List Bool} {k : Nat} (hW : W.length = 96) (hk : k < 12) :
    paradoxByte (BitVec.ofNat 96 (val W)) k = BitVec.ofNat 8 (val (slice W (8 * k) 8)) := by
  have hval : val W < 2 ^ 96 := hW ▸ val_lt W
  have hpos : 96 - 8 * k - 8 = 88 - 8 * k := by omega
  refine BitVec.eq_of_toNat_eq ?_
  rw [paradoxByte, BitVec.extractLsb'_toNat, BitVec.toNat_ofNat, Nat.mod_eq_of_lt hval, Nat.shiftRight_eq_div_pow,
    BitVec.toNat_ofNat, val_slice (by omega), hW, hpos, Nat.mod_mod]

/-- The preamble fills the first byte of the buffer, so bytes 4 to 9 start 24 bits behind it. -/
theorem paradoxBytes_of_preamble {F : List Bool} (hF : F.length = 88) :
    ((List.range 6).map fun k => paradoxByte (BitVec.ofNat 96 (val (bitsOf 8 0x0F ++ F))) (k + 4))
      = (List.range 6).map fun j => BitVec.ofNat 8 (val (slice F (24 + 8 * j) 8)) := by
  refine List.map_congr_left fun k hk => ?_
  have hk := List.mem_range.mp hk
  have hpos : 8 * (k + 4) - (bitsOf 8 0x0F).length = 24 + 8 * k := by rw [length_bitsOf]; omega
  rw [paradoxByte_ofNat_val (by rw [List.length_append, length_bitsOf, hF]) (by omega),
    slice_append_right _ (by rw [length_bitsOf]; omega), hpos]

/-! ### The search and the collection, bit by bit (R315) -/

/-- The search, in every SEARCH state, by the number of its window. -/
theorem paradoxBit_of_search (b : Bool) {S : Slot} (hmode : S.paradox.mode = .search) :
    let reg := (2 * S.paradox.sreg.toNat + b.toNat) % 256
    let cnt := min (S.paradox.scnt.toNat + 1) 8
    paradoxBit b S =
      if cnt = 8 ∧ reg = 0x0F then
        ⟨{ S with paradox := ⟨.collect, BitVec.ofNat 8 reg, BitVec.ofNat 4 cnt, 0x0F, 8⟩ }, none⟩
      else
        ⟨{ S with paradox := { S.paradox with sreg := BitVec.ofNat 8 reg, scnt := BitVec.ofNat 4 cnt } }, none⟩ := by
  intro reg cnt
  have hreg : S.paradox.sreg <<< 1 ||| (BitVec.ofBool b).zeroExtend 8 = BitVec.ofNat 8 reg :=
    BitVec.eq_of_toNat_eq (by rw [toNat_shiftIn, BitVec.toNat_ofNat]; exact (Nat.mod_mod _ _).symm)
  have hmatch : BitVec.ofNat 8 reg = 0x0F ↔ reg = 0x0F := by
    rw [← BitVec.toNat_inj, BitVec.toNat_ofNat, Nat.mod_mod]
    rfl
  simp only [paradoxBit, hmode, hreg, hmatch]
  rfl

/-- The slot with its codec in SEARCH after the bits G. -/
def Slot.paradoxSearching (S : Slot) (G : List Bool) : Slot :=
  { S with paradox := ⟨.search, BitVec.ofNat 8 (val G), BitVec.ofNat 4 (min G.length 8), 0, 0⟩ }

/-- The slot with its codec in COLLECT, holding the bits W of the buffer. -/
def Slot.paradoxCollecting (S : Slot) (sreg : BitVec 8) (scnt : BitVec 4) (W : List Bool) : Slot :=
  { S with paradox := ⟨.collect, sreg, scnt, BitVec.ofNat 96 (val W), BitVec.ofNat 7 W.length⟩ }

section Runs
variable {S : Slot}

/-- A cleared codec is in SEARCH after no bits. -/
theorem paradoxSearching_nil (hS : S.paradox = ⟨.search, 0, 0, 0, 0⟩) : S.paradoxSearching [] = S :=
  congrArg (fun c => { S with paradox := c }) hS.symm

/-- The search slides on until the bits seen end in the preamble. -/
theorem paradoxBit_searching (G : List Bool) (b : Bool) : paradoxBit b (S.paradoxSearching G) =
    if bitsOf 8 0x0F <:+ G ++ [b] then
      ⟨S.paradoxCollecting (BitVec.ofNat 8 (val (G ++ [b]))) (BitVec.ofNat 4 (min (G ++ [b]).length 8))
        (bitsOf 8 0x0F), none⟩
    else ⟨S.paradoxSearching (G ++ [b]), none⟩ := by
  have hreg : (2 * (BitVec.ofNat 8 (val G)).toNat + b.toNat) % 256 = val (G ++ [b]) % 256 := by
    rw [val_append_singleton, BitVec.toNat_ofNat]
    omega
  have hcnt : min ((BitVec.ofNat 4 (min G.length 8)).toNat + 1) 8 = min (G ++ [b]).length 8 := by
    rw [toNat_ofNat_min (by decide), List.length_append, List.length_singleton]
    omega
  have hmatch : (min (G ++ [b]).length 8 = 8 ∧ val (G ++ [b]) % 256 = 0x0F) ↔ bitsOf 8 0x0F <:+ G ++ [b] := by
    rw [suffix_iff_val, min_eq_right_iff]
    rfl
  have hmod : BitVec.ofNat 8 (val (G ++ [b]) % 256) = BitVec.ofNat 8 (val (G ++ [b])) :=
    BitVec.eq_of_toNat_eq (by rw [BitVec.toNat_ofNat, BitVec.toNat_ofNat, Nat.mod_mod])
  rw [paradoxBit_of_search b rfl]
  simp only [Slot.paradoxSearching, hreg, hcnt, hmatch, hmod]
  rfl

/-- The bits shift into a buffer that is not full; the 96th captures it and the search starts again. -/
theorem paradoxBit_collecting {W : List Bool} (sreg : BitVec 8) (scnt : BitVec 4) (b : Bool) (hW : W.length < 96) :
    paradoxBit b (S.paradoxCollecting sreg scnt W) =
      if W.length + 1 < 96 then ⟨S.paradoxCollecting sreg scnt (W ++ [b]), none⟩
      else ⟨S.paradoxSearching [],
        some ((List.range 6).map fun k => paradoxByte (BitVec.ofNat 96 (val (W ++ [b]))) (k + 4))⟩ := by
  have hcnt : (BitVec.ofNat 7 W.length).toNat = W.length := by rw [BitVec.toNat_ofNat]; omega
  simp only [paradoxBit, Slot.paradoxCollecting, shiftIn_ofNat_val, hcnt, List.length_append, List.length_singleton]
  rfl

/-! ### The search and the collection, over a sequence of bits -/

/-- Bits without a preamble, with the bits G before them, start nothing. -/
theorem feedBits_paradox_silent {F G : List Bool} (hnone : ¬ bitsOf 8 0x0F <:+: G ++ F) :
    feedBits paradoxBit F (S.paradoxSearching G) = (S.paradoxSearching (G ++ F), []) := by
  induction F generalizing G with
  | nil => rw [List.append_nil]; rfl
  | cons b F ih =>
    rw [List.append_cons] at hnone ⊢
    have hsuffix : ¬ bitsOf 8 0x0F <:+ G ++ [b] := fun hend =>
      hnone (hend.isInfix.trans (List.prefix_append _ F).isInfix)
    rw [feedBits, paradoxBit_searching, if_neg hsuffix, ih hnone]
    rfl

/-- The preamble does not overlap itself, so the first one starts the collection at its last bit. -/
theorem feedBits_paradox_preamble {P : List Bool} (hnone : ¬ bitsOf 8 0x0F <:+: P) :
    ∃ sreg scnt, feedBits paradoxBit (P ++ bitsOf 8 0x0F) (S.paradoxSearching [])
      = (S.paradoxCollecting sreg scnt (bitsOf 8 0x0F), []) := by
  have hsilent : feedBits paradoxBit (P ++ (bitsOf 8 0x0F).dropLast) (S.paradoxSearching [])
      = (S.paradoxSearching (P ++ (bitsOf 8 0x0F).dropLast), []) :=
    feedBits_paradox_silent (not_infix_append_dropLast (by decide) (by decide) hnone)
  have hsplit : P ++ bitsOf 8 0x0F = P ++ (bitsOf 8 0x0F).dropLast ++ [true] := by
    rw [List.append_assoc]
    rfl
  have hlast := (paradoxBit_searching (S := S) (P ++ (bitsOf 8 0x0F).dropLast) true).trans
    (if_pos (hsplit ▸ List.suffix_append P _))
  rw [hsplit, feedBits_append, hsilent, feedBits_singleton, hlast]
  exact ⟨_, _, rfl⟩

/-- Fewer than 96 bits stay in the buffer. -/
theorem feedBits_paradox_collecting {F W : List Bool} (sreg : BitVec 8) (scnt : BitVec 4)
    (h : W.length + F.length < 96) :
    feedBits paradoxBit F (S.paradoxCollecting sreg scnt W) = (S.paradoxCollecting sreg scnt (W ++ F), []) := by
  induction F generalizing W with
  | nil => rw [List.append_nil]; rfl
  | cons b F ih =>
    rw [List.length_cons] at h
    rw [feedBits, paradoxBit_collecting sreg scnt b (by omega), if_pos (by omega),
      ih (by rw [List.length_append, List.length_singleton]; omega), List.append_cons W b F]
    rfl

/-- The first preamble and fewer than 88 bits behind it capture nothing. -/
theorem feedBits_paradox_short {P F : List Bool} (hnone : ¬ bitsOf 8 0x0F <:+: P) (hF : F.length < 88) :
    ∃ sreg scnt, feedBits paradoxBit (P ++ bitsOf 8 0x0F ++ F) (S.paradoxSearching [])
      = (S.paradoxCollecting sreg scnt (bitsOf 8 0x0F ++ F), []) := by
  obtain ⟨sreg, scnt, hrun⟩ := feedBits_paradox_preamble (S := S) hnone
  refine ⟨sreg, scnt, ?_⟩
  rw [feedBits_append, hrun, feedBits_paradox_collecting sreg scnt (by rw [length_bitsOf]; omega)]
  rfl

/-- The 88th bit behind the first preamble captures, and the search starts again. -/
theorem feedBits_paradox_full {P F : List Bool} (hnone : ¬ bitsOf 8 0x0F <:+: P) (hF : F.length = 88) :
    feedBits paradoxBit (P ++ bitsOf 8 0x0F ++ F) (S.paradoxSearching []) = (S.paradoxSearching [],
      [(List.range 6).map fun k => paradoxByte (BitVec.ofNat 96 (val (bitsOf 8 0x0F ++ F))) (k + 4)]) := by
  obtain rfl | ⟨G, b, rfl⟩ := List.eq_nil_or_concat' F
  · cases hF
  · have hG : G.length = 87 := by simpa using hF
    have hlen : (bitsOf 8 0x0F ++ G).length = 95 := by rw [List.length_append, length_bitsOf, hG]
    obtain ⟨sreg, scnt, hrun⟩ := feedBits_paradox_short (S := S) hnone (F := G) (by omega)
    rw [← List.append_assoc, feedBits_append, hrun, feedBits_singleton,
      paradoxBit_collecting sreg scnt b (by omega), if_neg (by omega), List.append_assoc]
    rfl

end Runs

/-- Settles O43: the bit rule by the number of the window; then a cleared codec finds the first preamble, collects
behind it, and is cleared again by the capture. -/
theorem paradoxCollectsUnchecked : Obligations.ParadoxCollectsUnchecked := by
  unfold Obligations.ParadoxCollectsUnchecked
  refine ⟨fun b S => paradoxBit_of_search b, fun S P F hS hnone hF => ?_⟩
  constructor
  · obtain ⟨sreg, scnt, hrun⟩ := feedBits_paradox_short (S := S) hnone (F := F.take 87)
      (by rw [List.length_take]; omega)
    rw [paradoxSearching_nil hS] at hrun
    exact congrArg Prod.snd hrun
  · have hrun := feedBits_paradox_full (S := S) hnone hF
    rwa [paradoxSearching_nil hS, paradoxBytes_of_preamble hF] at hrun

end Sys2Proof.Machine
end

section
/-! PROOFS. The status of a command (60_exceptions.md): every command answers the first of R371's list that applies, so
every step answers a next state (R373, R374), and a command that raises changes RESP alone (R372). -/

namespace Sys2Proof.Machine

/-! ### STATUS of the words that the commands answer (R97) -/

@[simp] theorem respStatus_errorResp (e : Status) : respStatus (errorResp e) = e.code := by
  rw [errorResp, respStatus_respWord]
@[simp] theorem respStatus_okResp : respStatus okResp = 0 := by rw [okResp, respStatus_respWord]; rfl
@[simp] theorem respStatus_resultResp (result : BitVec 16) : respStatus (resultResp result) = 0 := by
  rw [resultResp, respStatus_respWord]; rfl
@[simp] theorem respStatus_handleResp (handle : BitVec 4) : respStatus (handleResp handle) = 0 := by
  rw [handleResp, respStatus_respWord]; rfl
@[simp] theorem respStatus_feedResp (v : Variant) (done : Bool) : respStatus (feedResp v done) = 0 := by
  rw [feedResp, respStatus_respWord]; rfl

/-- RESP of an error is its STATUS, every other field 0 (R97). -/
theorem errorResp_eq_zeroExtend (e : Status) : errorResp e = e.code.zeroExtend 32 := by
  cases e <;> rfl

/-! ### Errors are precise (R372) -/

/-- A command whose STATUS is not OK has changed nothing but RESP. -/
theorem Effect.eq_setResp {i : Instr} {s t : State} (h : Effect s i t) (hstatus : respStatus t.resp ≠ 0) :
    t = s.setResp ((respStatus t.resp).zeroExtend 32) := by
  cases h with
  | raised _ e => rw [State.raise_resp, respStatus_errorResp, ← errorResp_eq_zeroExtend]; rfl
  | answered | allocated | freed | started | fed | gotData | modulated | written => simp at hstatus

/-- Settles O9: a word that is no command raises, and a command that raises has no other effect. -/
theorem errorsArePrecise : Obligations.ErrorsArePrecise := by
  unfold Obligations.ErrorsArePrecise
  intro s t w rest hhost hstep hstatus
  rw [step_of_writeCmd hhost] at hstep
  obtain ⟨e, -, rfl⟩ | ⟨i, -, hexec⟩ := runWord_next hstep
  · rw [State.raise_resp, respStatus_errorResp, ← errorResp_eq_zeroExtend]; rfl
  · exact (effect_of_exec hexec).eq_setResp hstatus

/-! ### R371's list, row by row -/

section PriorityList
variable (s : State)

theorem specStatus_eq_specStatusOf (w : Word) :
    specStatus s w.toNat = specStatusOf s.slots s.slots[(fieldSlot w).toNat]? (fieldOp w).toNat (fieldSel w).toNat
      (fieldSlot w).toNat (fieldFmt w).toNat (fieldData w).toNat := by
  rw [specStatus, toNat_fieldOp, toNat_fieldSel, toNat_fieldSlot, toNat_fieldFmt, toNat_fieldData]

theorem specStatus_packWord (op sel slot fmt : BitVec 4) (data : BitVec 16) :
    specStatus s (packWord op sel slot fmt data).toNat
      = specStatusOf s.slots s.slots[slot.toNat]? op.toNat sel.toNat slot.toNat fmt.toNat data.toNat := by
  rw [specStatus_eq_specStatusOf, fieldOp_packWord, fieldSel_packWord, fieldSlot_packWord, fieldFmt_packWord,
    fieldData_packWord]

theorem specStatus_of_illegal {v : Variant} {w : Word} (h : decode v w = .error .illegal) :
    specStatus s w.toNat = 1 := if_pos (decode_eq_illegal_iff.mp h)

theorem specStatus_of_badProt {v : Variant} {w : Word} (h : decode v w = .error .badProt) :
    specStatus s w.toNat = 2 := by
  obtain ⟨hlegal, hop, hsel⟩ := decode_eq_badProt_iff.mp h
  rw [illegalWord_iff] at hlegal
  rw [specStatus_eq_specStatusOf, specStatusOf, if_neg hlegal, if_pos ⟨hop, hsel⟩]

theorem specStatus_alloc {prot : BitVec 4} (h : prot.toNat ≤ 5) :
    specStatus s (packWord 0 prot 0 0 0).toNat = if s.leastFree? = none then 3 else 0 := by
  simp [specStatus_packWord, specStatusOf, illegalFields, leastFree?_eq_none, Nat.not_lt.mpr h]

theorem specStatus_free (n : BitVec 4) : specStatus s (packWord 1 0 n 0 0).toNat = 0 := by
  simp [specStatus_packWord, specStatusOf, illegalFields]

theorem specStatus_gen {gsel : BitVec 4} (len : Byte) (h : gsel.toNat < 5) :
    specStatus s (packWord 7 gsel 0 0 (0#8 ++ len)).toNat
      = if (if gsel.toNat = 4 then lenOne else lenUpTo28) len.toNat then 0 else 8 := by
  have hdata : (0#8 ++ len).toNat = len.toNat := by rw [BitVec.toNat_append]; simp
  have hlen : len.toNat < 256 := len.isLt
  have hbad : 28 < len.toNat ∨ (gsel.toNat = 4 ∧ len.toNat ≠ 1)
      ↔ ¬ (if gsel.toNat = 4 then lenOne else lenUpTo28) len.toNat = true := by
    by_cases hodd : gsel.toNat = 4
    · simp [hodd, lenOne]; omega
    · simp [hodd, lenUpTo28]
  rw [specStatus_packWord, hdata, ← ite_not]
  simp only [← hbad]
  simp [specStatusOf, illegalFields, Nat.not_le.mpr h, Nat.not_le.mpr hlen, Nat.mod_eq_of_lt hlen]

end PriorityList

section NamedSlot
variable {s : State} {n : BitVec 4}

theorem any_alloc_iff : s.slots[n.toNat]?.any (·.alloc) = true ↔ ∃ S, s.allocated? n = some S := by
  simp [Option.any_eq_true, allocated?_eq_some]

/-- On a slot that is not allocated E_NOT_ALLOCATED comes first, whatever FMT and DATA a START or FEED carries. -/
theorem specStatus_of_not_allocated (h : s.allocated? n = none) :
    (∀ fmt, specStatus s (packWord 2 0 n fmt 0).toNat = 4)
      ∧ (∀ data, specStatus s (packWord 3 0 n 0 data).toNat = 4)
      ∧ specStatus s (packWord 4 0 n 0 0).toNat = 4 ∧ specStatus s (packWord 5 0 n 0 0).toNat = 4
      ∧ specStatus s (packWord 6 0 n 0 0).toNat = 4 := by
  have hany : s.slots[n.toNat]?.any (·.alloc) = false := by
    rw [← Bool.not_eq_true, any_alloc_iff, h]
    simp
  simp [specStatus_packWord, specStatusOf, illegalFields, hany]

variable {S : Slot} (h : s.allocated? n = some S)
include h

theorem specStatus_start (fmt : BitVec 4) :
    specStatus s (packWord 2 0 n fmt 0).toNat = if layoutOfFmt S.prot fmt = none then 5 else 0 := by
  obtain ⟨hslot, ha⟩ := allocated?_eq_some.mp h
  have hlayout : layoutOfFmt S.prot fmt = none ↔ ¬ (fmt.toNat = 0 ∨ (fmt.toNat = 1 ∧ S.prot = .indala)) := by
    simp only [layoutOfFmt, BitVec.toNat_eq, BitVec.ofNat_eq_ofNat, BitVec.toNat_ofNat]
    split_ifs <;> simp_all
  simp only [hlayout]
  simp [specStatus_packWord, specStatusOf, illegalFields, hslot, ha]

theorem specStatus_feed (data : BitVec 16) :
    specStatus s (packWord 3 0 n 0 data).toNat = if S.variant = .pac then 6 else 0 := by
  obtain ⟨hslot, ha⟩ := allocated?_eq_some.mp h
  simp only [← variantProt_eq_pac, variantProt_variant]
  simp [specStatus_packWord, specStatusOf, illegalFields, hslot, ha]

theorem specStatus_getData :
    specStatus s (packWord 4 0 n 0 0).toNat = if S.dataValid = false then 7 else 0 := by
  obtain ⟨hslot, ha⟩ := allocated?_eq_some.mp h
  simp [specStatus_packWord, specStatusOf, illegalFields, hslot, ha]

theorem specStatus_modulate : specStatus s (packWord 5 0 n 0 0).toNat = 0 := by
  obtain ⟨hslot, ha⟩ := allocated?_eq_some.mp h
  simp [specStatus_packWord, specStatusOf, illegalFields, hslot, ha]

theorem specStatus_write : specStatus s (packWord 6 0 n 0 0).toNat = 0 := by
  obtain ⟨hslot, ha⟩ := allocated?_eq_some.mp h
  simp [specStatus_packWord, specStatusOf, illegalFields, hslot, ha]

end NamedSlot

/-! ### The status of every command (R371, R373) -/

/-- The command answers a next state, whose STATUS is the number `k`. -/
def Answers (o : Outcome) (k : Nat) : Prop := ∃ t, o = .next t ∧ (respStatus t.resp).toNat = k

section Rows
variable (s : State)

theorem answers_raise (e : Status) : Answers (.next (s.raise e)) e.code.toNat :=
  ⟨_, rfl, by rw [State.raise_resp, respStatus_errorResp]⟩

theorem answers_setResp {r : Word} (h : respStatus r = 0) : Answers (.next (s.setResp r)) 0 :=
  ⟨_, rfl, by rw [State.setResp_resp, h]; rfl⟩

theorem answers_alloc (p : Prot) : Answers (exec (allocOf p) s) (if s.leastFree? = none then 3 else 0) := by
  rw [exec_allocOf, allocate]
  cases s.leastFree? with
  | none => exact answers_raise s .noSlot
  | some n => exact answers_setResp _ (respStatus_handleResp _)

theorem answers_free (n : BitVec 4) : Answers (exec (.free n) s) 0 := by
  rw [exec]
  cases hS : s.allocated? n with
  | none => rw [execFree_of_not_allocated hS]; exact answers_setResp _ respStatus_okResp
  | some S => rw [execFree_of_allocated hS]; exact answers_setResp _ respStatus_okResp

theorem answers_start (n fmt : BitVec 4) :
    Answers (exec (.start n fmt) s) (specStatus s (packWord 2 0 n fmt 0).toNat) := by
  rw [exec]
  cases hS : s.allocated? n with
  | none =>
    obtain ⟨hstatus, -⟩ := specStatus_of_not_allocated hS
    rw [hstatus, execStart, onSlot_of_not_allocated hS]
    exact answers_raise s .notAllocated
  | some S =>
    rw [specStatus_start hS]
    cases hf : layoutOfFmt S.prot fmt with
    | none => rw [execStart_of_no_layout hS hf]; exact answers_raise s .badFormat
    | some f => rw [execStart_of_layout hS hf]; exact answers_setResp _ respStatus_okResp

/-- FEED in the row its slot selects (R102). -/
theorem answers_feed (n : BitVec 4) (data : BitVec 16) :
    Answers (exec (feedRow (s.variantAt n) n data) s) (specStatus s (packWord 3 0 n 0 data).toNat) := by
  obtain ⟨t, hexec, hview⟩ := exec_feedRow_reply s n data
  refine ⟨t, hexec, ?_⟩
  have hresp : t.resp = (feedReply s.cfg data s.slots[n.toNat]?).1 := congrArg Prod.fst hview
  rw [hresp]
  cases hS : s.allocated? n with
  | none =>
    obtain ⟨-, hstatus, -⟩ := specStatus_of_not_allocated hS
    rw [hstatus, feedReply_of_not_allocated (allocated?_eq_none.mp hS), respStatus_errorResp]
    rfl
  | some S =>
    obtain ⟨hslot, ha⟩ := allocated?_eq_some.mp hS
    rw [specStatus_feed hS, hslot]
    by_cases hpac : S.variant = .pac
    · rw [if_pos hpac, feedReply_of_pac ha hpac, respStatus_errorResp]; rfl
    · rw [if_neg hpac, feedReply_of_rule ha hpac, respStatus_feedResp]; rfl

theorem answers_getData (n : BitVec 4) : Answers (exec (.getData n) s) (specStatus s (packWord 4 0 n 0 0).toNat) := by
  rw [exec]
  cases hS : s.allocated? n with
  | none =>
    obtain ⟨-, -, hstatus, -⟩ := specStatus_of_not_allocated hS
    rw [hstatus, execGetData, onSlot_of_not_allocated hS]
    exact answers_raise s .notAllocated
  | some S =>
    rw [specStatus_getData hS]
    cases hvalid : S.dataValid with
    | false => rw [execGetData_of_not_valid hS hvalid]; exact answers_raise s .dataNotValid
    | true => rw [execGetData_of_valid hS hvalid]; exact answers_setResp _ (respStatus_resultResp _)

/-- MODULATE in the row its slot selects (R102). -/
theorem answers_modulate (n : BitVec 4) :
    Answers (exec (modulateRow (s.variantAt n) n) s) (specStatus s (packWord 5 0 n 0 0).toNat) := by
  cases hS : s.allocated? n with
  | none =>
    obtain ⟨-, -, -, hstatus, -⟩ := specStatus_of_not_allocated hS
    rw [hstatus, exec_modulateRow, modulateOn, onRow, onSlot_of_not_allocated hS]
    exact answers_raise s .notAllocated
  | some S =>
    obtain ⟨hslot, -⟩ := allocated?_eq_some.mp hS
    rw [specStatus_modulate hS, variantAt_of_slot hslot, exec_modulateRow_of_allocated hS rfl]
    exact answers_setResp _ (respStatus_resultResp _)

/-- WRITE_T5577 in the row its slot selects (R102). -/
theorem answers_write (n : BitVec 4) :
    Answers (exec (writeRow (s.variantAt n) n) s) (specStatus s (packWord 6 0 n 0 0).toNat) := by
  rw [exec_writeRow, writeT5577On]
  cases hS : s.allocated? n with
  | none =>
    obtain ⟨-, -, -, -, hstatus⟩ := specStatus_of_not_allocated hS
    rw [hstatus, onRow, onSlot_of_not_allocated hS]
    exact answers_raise s .notAllocated
  | some S =>
    obtain ⟨hslot, -⟩ := allocated?_eq_some.mp hS
    rw [specStatus_write hS, onRow_of_row hS (variantAt_of_slot hslot).symm]
    exact answers_setResp _ (respStatus_resultResp _)

theorem answers_genOn (legal : Nat → Bool) (g : List Byte → BitVec 16) (len : Byte) :
    Answers (genOn legal g len s) (if legal len.toNat then 0 else 8) := by
  rw [genOn]
  split
  · exact answers_setResp _ (respStatus_resultResp _)
  · exact answers_raise s .badLen

/-- Every PROT of R93 has the ALLOC row of a protocol. -/
theorem exists_prot_of_allocRow {prot : BitVec 4} {i : Instr} (h : allocRow prot = .ok i) : ∃ p, i = allocOf p := by
  unfold allocRow at h
  split at h
  case h_1 => cases h; exact ⟨.fdxb, rfl⟩
  case h_2 => cases h; exact ⟨.indala, rfl⟩
  case h_3 => cases h; exact ⟨.ioprox, rfl⟩
  case h_4 => cases h; exact ⟨.jablotron, rfl⟩
  case h_5 => cases h; exact ⟨.paradox, rfl⟩
  case h_6 => cases h; exact ⟨.pac, rfl⟩
  case h_7 => cases h

theorem answers_gen {gsel : BitVec 4} {len : Byte} {i : Instr} (h : genRow gsel len = .ok i) :
    Answers (exec i s) (specStatus s (packWord 7 gsel 0 0 (0#8 ++ len)).toNat) := by
  have hlegal : gsel.toNat < 5 := Nat.not_le.mp fun hge => by rw [genRow_eq_illegal.mpr hge] at h; cases h
  rw [specStatus_gen s len hlegal]
  unfold genRow at h
  split at h
  case h_6 => cases h
  all_goals
    rename_i hsel
    cases h
    rw [hsel]
  case h_1 => rw [exec_genCrc16]; exact answers_genOn s lenUpTo28 _ len
  case h_2 => rw [exec_genCrc8Maxim]; exact answers_genOn s lenUpTo28 _ len
  case h_3 => rw [exec_genXor8]; exact answers_genOn s lenUpTo28 _ len
  case h_4 => rw [exec_genSumComp8]; exact answers_genOn s lenUpTo28 _ len
  case h_5 => rw [exec_genOddPar7]; exact answers_genOn s lenOne _ len

end Rows

/-- A word of the table answers the status the list gives it. -/
theorem TableRow.answers {s : State} {w : Word} {i : Instr} (h : TableRow (s.variantAt (fieldSlot w)) w i) :
    Answers (exec i s) (specStatus s w.toNat) := by
  generalize hv : s.variantAt (fieldSlot w) = v at h
  cases h with
  | alloc prot i hi =>
    have hlegal : prot.toNat ≤ 5 := by
      by_contra hge
      rw [allocRow_eq_badProt.mpr (by omega)] at hi
      cases hi
    obtain ⟨p, rfl⟩ := exists_prot_of_allocRow hi
    rw [specStatus_alloc s hlegal]
    exact answers_alloc s p
  | free n => rw [specStatus_free]; exact answers_free s n
  | start n fmt => exact answers_start s n fmt
  | getData n => exact answers_getData s n
  | gen gsel len i hi => exact answers_gen s hi
  | feed n data =>
    rw [fieldSlot_packWord] at hv
    exact hv ▸ answers_feed s n data
  | modulate n =>
    rw [fieldSlot_packWord] at hv
    exact hv ▸ answers_modulate s n
  | write n =>
    rw [fieldSlot_packWord] at hv
    exact hv ▸ answers_write s n

/-- Every word answers the status the list gives it, whether it decodes or not. -/
theorem runWord_answers (s : State) (w : Word) : Answers (runWord w s) (specStatus s w.toNat) := by
  cases hdecode : decode (s.variantAt (fieldSlot w)) w with
  | ok i =>
    rw [runWord_of_decode hdecode]
    exact (tableRow_of_decode hdecode).answers
  | error e =>
    rw [runWord_of_decode_error hdecode]
    cases e with
    | illegal => rw [specStatus_of_illegal s hdecode]; exact answers_raise s .illegal
    | badProt => rw [specStatus_of_badProt s hdecode]; exact answers_raise s .badProt

/-- Settles O10: the list reads the slots alone of the state, which the CMD write leaves. -/
theorem statusFollowsThePriorityList : Obligations.StatusFollowsThePriorityList := by
  unfold Obligations.StatusFollowsThePriorityList
  intro s w rest hhost
  rw [step_of_writeCmd hhost]
  exact runWord_answers ((s.setCmd w).setHost rest) w

/-- Settles O8: the engine waits, or runs a word, and every word answers. -/
theorem stepAlwaysAnswersANextState : Obligations.StepAlwaysAnswersANextState := by
  unfold Obligations.StepAlwaysAnswersANextState
  intro s
  rw [step]
  cases hfetch : s.fetch with
  | mk taken t =>
    cases taken with
    | none => exact ⟨t, rfl⟩
    | some w =>
      obtain ⟨u, hrun, -⟩ := runWord_answers t w
      exact ⟨u, hrun⟩

end Sys2Proof.Machine
end

section
/-! PROOFS. Reset (R400) has the invariant and the values of its table; START again and ALLOC leave the slot START gives
(R401, R402); PAC is never decoded (R333). -/

namespace Sys2Proof.Machine

/-! ### Reset (R400) -/

/-- Settles O12. -/
theorem resetHasTheInvariant : Obligations.ResetHasTheInvariant := by
  unfold Obligations.ResetHasTheInvariant
  intro c h hc
  exact resetWith_inv hc h

/-- Settles O13: every slot after reset is the free slot, and every buffer is zero. -/
theorem resetLeavesTheValuesOfTheTable : Obligations.ResetLeavesTheValuesOfTheTable := by
  unfold Obligations.ResetLeavesTheValuesOfTheTable
  intro c h r
  refine ⟨List.length_replicate, fun S hS => ?slots, rfl, fun k => ?ids, fun p i => ?wave, fun p => ?waveLen,
    fun k => ?blocks, rfl⟩
  case slots =>
    rw [List.eq_of_mem_replicate hS]
    refine ⟨rfl, rfl, rfl, rfl, fun k => ?_, rfl, rfl, rfl, rfl, rfl, rfl, nofun, rfl, nofun, rfl, rfl, rfl⟩
    simp [Slot.free, IdBytes.zero]
  case ids => simp [r, State.resetWith, IdBytes.zero]
  case wave => simp [r, State.waveAt, State.resetWith, WaveBuf.zero]
  case waveLen => simp [r, State.resetWith, WaveBuf.zero]
  case blocks => simp [r, State.resetWith]

/-! ### START twice (R402) -/

theorem allocated?_setSlot_self {s : State} {n : BitVec 4} {S T : Slot} (r : Word) (hS : s.allocated? n = some S)
    (hT : T.alloc = true) : ((s.setSlot n.toNat T).setResp r).allocated? n = some T := by
  obtain ⟨hslot, -⟩ := allocated?_eq_some.mp hS
  obtain ⟨hlt, -⟩ := List.getElem?_eq_some_iff.mp hslot
  exact allocated?_eq_some.mpr ⟨List.getElem?_set_self hlt, hT⟩

theorem allocated?_setSlot_of_ne {s : State} {n : BitVec 4} {m : Nat} (T : Slot) (r : Word) (h : m ≠ n.toNat) :
    ((s.setSlot m T).setResp r).allocated? n = s.allocated? n :=
  allocated?_congr (List.getElem?_set_ne h)

theorem respStatus_raise_ne_zero (s : State) {e : Status} (h : e ≠ .ok) : respStatus (s.raise e).resp ≠ 0 := by
  rw [State.raise_resp, respStatus_errorResp]
  cases e with
  | ok => exact absurd rfl h
  | _ => decide

/-- Two machines that have one allocated slot n agree on the slot. -/
theorem slot_eq_of_allocated? {s t : State} {n : BitVec 4} {S : Slot} (hs : s.allocated? n = some S)
    (ht : t.allocated? n = some S) : s.slots[n.toNat]? = t.slots[n.toNat]? := by
  obtain ⟨hs, -⟩ := allocated?_eq_some.mp hs
  obtain ⟨ht, -⟩ := allocated?_eq_some.mp ht
  rw [hs, ht]

/-- A START that completed found an allocated slot, and a layout of its protocol, and left the slot fresh (R122). -/
theorem started_of_ok {s t : State} {n fmt : BitVec 4} (h : exec (.start n fmt) s = .next t)
    (hok : respStatus t.resp = 0) :
    ∃ S f, s.allocated? n = some S ∧ layoutOfFmt S.prot fmt = some f
      ∧ t = (s.setSlot n.toNat (Slot.fresh s.cfg S.prot f)).setResp okResp
      ∧ t.allocated? n = some (Slot.fresh s.cfg S.prot f) := by
  obtain ⟨-, rfl⟩ | ⟨S, hS, ⟨-, rfl⟩ | ⟨f, hf, rfl⟩⟩ := execStart_next h
  · exact absurd hok (respStatus_raise_ne_zero s (by decide))
  · exact absurd hok (respStatus_raise_ne_zero s (by decide))
  · exact ⟨S, f, hS, hf, rfl, allocated?_setSlot_self _ hS rfl⟩

theorem setSlot_eq_self {s : State} {n : Nat} {S : Slot} (h : s.slots[n]? = some S) : s.setSlot n S = s := by
  obtain ⟨hlt, rfl⟩ := List.getElem?_eq_some_iff.mp h
  rw [State.setSlot, List.set_getElem_self]

@[simp] theorem fresh_prot (c : Config) (p : Prot) (f : Layout) : (Slot.fresh c p f).prot = p := rfl

/-- START on a slot that is as START leaves it changes nothing but RESP. -/
theorem exec_start_of_fresh {s : State} {n fmt : BitVec 4} {p : Prot} {f : Layout}
    (h : s.allocated? n = some (Slot.fresh s.cfg p f)) (hf : layoutOfFmt p fmt = some f) :
    exec (.start n fmt) s = .next (s.setResp okResp) := by
  obtain ⟨hslot, -⟩ := allocated?_eq_some.mp h
  rw [exec, execStart_of_layout h hf, fresh_prot, setSlot_eq_self hslot]

/-- A command that is no FEED and no FREE on the slot leaves it allocated, with its PROT. -/
theorem Effect.keeps_prot {i : Instr} {s t : State} {n : BitVec 4} {S : Slot} (h : Effect s i t)
    (hS : s.allocated? n = some S) (hfeed : ∀ v d, i ≠ feedRow v n d) (hfree : i ≠ .free n) :
    ∃ T, t.allocated? n = some T ∧ T.prot = S.prot := by
  cases h with
  | raised | answered | gotData | modulated | written => exact ⟨S, hS, rfl⟩
  | allocated p m hm =>
    have hne : m ≠ n.toNat := by
      rintro rfl
      obtain ⟨hlt, hclear, -⟩ := leastFree?_eq_some.mp hm
      obtain ⟨hslot, ha⟩ := allocated?_eq_some.mp hS
      obtain ⟨_, hget⟩ := List.getElem?_eq_some_iff.mp hslot
      rw [← hget, hclear] at ha
      cases ha
    exact ⟨S, (allocated?_setSlot_of_ne _ _ hne).trans hS, rfl⟩
  | freed m =>
    have hne : m.toNat ≠ n.toNat := fun heq => hfree (by rw [BitVec.eq_of_toNat_eq heq])
    exact ⟨S, (allocated?_setSlot_of_ne _ _ hne).trans hS, rfl⟩
  | started m fmt T f hT =>
    by_cases heq : m = n
    · subst heq
      obtain rfl : S = T := Option.some_injective _ (hS.symm.trans hT)
      exact ⟨_, allocated?_setSlot_self _ hS rfl, rfl⟩
    · exact ⟨S, (allocated?_setSlot_of_ne _ _ fun h => heq (BitVec.eq_of_toNat_eq h)).trans hS, rfl⟩
  | fed v m d =>
    have hne : m.toNat ≠ n.toNat := fun heq => hfeed v d (by rw [BitVec.eq_of_toNat_eq heq])
    exact ⟨S, (allocated?_setSlot_of_ne _ _ hne).trans hS, rfl⟩

/-- Settles O21: what lies between leaves the slot allocated with its PROT, and the slot START leaves is a function of
the configuration, PROT and FMT. -/
theorem startIsIdempotent : Obligations.StartIsIdempotent := by
  unfold Obligations.StartIsIdempotent
  intro s t u w n fmt i hstart hok
  obtain ⟨S, f, hS, hf, rfl, ht⟩ := started_of_ok hstart hok
  refine ⟨?again, fun hfeed hfree hi hrestart => ?between, fun s' t' hstart' hok' hcfg hprot => ?other⟩
  case again => exact exec_start_of_fresh ht hf
  case between =>
    obtain ⟨T, hT, hTprot⟩ := (effect_of_exec hi).keeps_prot ht hfeed hfree
    obtain ⟨-, hucfg, -⟩ := noCommandWritesIdInOrTheConfiguration _ _ _ hi
    have hTlayout : layoutOfFmt T.prot fmt = some f := by rw [hTprot]; exact hf
    rw [exec, execStart_of_layout hT hTlayout] at hrestart
    cases hrestart
    refine slot_eq_of_allocated? (allocated?_setSlot_self _ hT rfl) ?_
    rw [ht, hucfg, hTprot]
    rfl
  case other =>
    obtain ⟨S', f', hS', hf', rfl, ht'⟩ := started_of_ok hstart' hok'
    obtain ⟨hslot, -⟩ := allocated?_eq_some.mp hS
    obtain ⟨hslot', -⟩ := allocated?_eq_some.mp hS'
    rw [hslot, hslot', Option.map_some, Option.map_some, Option.some_inj] at hprot
    obtain rfl : f' = f := Option.some_injective _ (by rw [← hf', ← hf, hprot])
    exact slot_eq_of_allocated? ht' (by rw [ht, hcfg, hprot])

/-! ### ALLOC and ALLOC; START 0 (R401) -/

/-- FEED reads no RESP, and writes it whole. -/
theorem exec_feedRow_setResp (v : Variant) (n : BitVec 4) (d : BitVec 16) (s : State) (r : Word) :
    exec (feedRow v n d) (s.setResp r) = exec (feedRow v n d) s := by
  cases v <;> rfl

theorem exists_allocOf_of_mem {i : Instr} (h : i ∈ [Instr.allocFdxb, .allocIndala, .allocIoprox, .allocJablotron,
    .allocParadox, .allocPac]) : ∃ p, i = allocOf p := by
  obtain ⟨p, -, rfl⟩ := List.mem_map.mp (show i ∈ allProts.map allocOf from h)
  exact ⟨p, rfl⟩

/-- An ALLOC that completed left a fresh slot at the number it answers, which 4 bits hold (R120). -/
theorem allocated_of_ok {p : Prot} {s t : State} (h : exec (allocOf p) s = .next t) (hok : respStatus t.resp = 0)
    (hlen : s.slots.length ≤ 16) : t.allocated? (respHandle t.resp) = some (Slot.fresh t.cfg p .l64) := by
  rw [exec_allocOf] at h
  obtain ⟨-, rfl⟩ | ⟨m, hm, rfl⟩ := allocate_next h
  · exact absurd hok (respStatus_raise_ne_zero s (by decide))
  · obtain ⟨hlt, -⟩ := leastFree?_eq_some.mp hm
    have hm16 : (BitVec.ofNat 4 m).toNat = m := by rw [BitVec.toNat_ofNat]; omega
    rw [State.setResp_resp, handleResp, respHandle_respWord]
    refine allocated?_eq_some.mpr ⟨?_, rfl⟩
    rw [hm16]
    exact List.getElem?_set_self hlt

/-- Settles O22: START 0 writes the slot that ALLOC left, so the two states differ in RESP alone. -/
theorem allocLeavesTheStateOfStartZero : Obligations.AllocLeavesTheStateOfStartZero := by
  unfold Obligations.AllocLeavesTheStateOfStartZero
  intro i hi s t u n halloc hok hhandle hlen hstart
  obtain ⟨p, rfl⟩ := exists_allocOf_of_mem hi
  subst hhandle
  rw [exec_start_of_fresh (allocated_of_ok halloc hok hlen) rfl] at hstart
  cases hstart
  exact ⟨rfl, fun v d => exec_feedRow_setResp v _ d t okResp⟩

/-! ### PAC (R333) -/

/-- Settles O24: FEED's row raises, and the invariant keeps DATA_VALID of a PAC slot 0. -/
theorem pacIsNeverDecoded : Obligations.PacIsNeverDecoded := by
  unfold Obligations.PacIsNeverDecoded
  intro s n d S hslot ha hprot
  have hS := allocated?_eq_some.mpr ⟨hslot, ha⟩
  have hpac : S.variant = .pac := variantProt_eq_pac.mp ((variantProt_variant S).trans hprot)
  refine ⟨onRow_of_row hS hpac, fun hinv => execGetData_of_not_valid hS ?_⟩
  obtain ⟨-, -, hslots, -⟩ := hinv
  obtain ⟨⟨-, -, -, -, hnever⟩, -⟩ := Slot.inv_iff.mp (hslots S (List.mem_of_getElem? hslot))
  exact hnever hprot

end Sys2Proof.Machine
end

section
/-! PROOFS. The characters of a PAC frame (48_pac.md). -/

namespace Sys2Proof.Machine

/-! ### Blocks of one length -/

/-- The k-th block of a sequence of blocks of one length. -/
theorem slice_flatMap {α : Type} {f : α → List Bool} {m : Nat} (hf : ∀ a, (f a).length = m) {as : List α}
    {k : Nat} (hk : k < as.length) : slice (as.flatMap f) (m * k) m = f as[k] := by
  induction as generalizing k with
  | nil => cases hk
  | cons a as ih =>
    rw [List.flatMap_cons]
    cases k with
    | zero => rw [slice_append_left _ (by rw [hf]; omega), Nat.mul_zero, slice_of_length (hf a)]; rfl
    | succ k =>
      have hpos : m * (k + 1) - (f a).length = m * k := by rw [hf, Nat.mul_succ, Nat.add_sub_cancel]
      rw [slice_append_right _ (by rw [hf]; exact Nat.le_mul_of_pos_right m k.succ_pos), hpos,
        ih (Nat.lt_of_succ_lt_succ hk)]
      rfl

/-- A slice of a slice. -/
theorem slice_slice {F : List Bool} {lo n i m : Nat} (h : i + m ≤ n) :
    slice (slice F lo n) i m = slice F (lo + i) m := by
  simp only [slice, List.drop_take, List.take_take, List.drop_drop]
  rw [Nat.min_eq_left (by omega)]

/-! ### A character (R331) -/

section Character
variable (lsbFirst : Bool) (ch : Byte)

theorem bitAt_pacChar_start : bitAt (pacChar lsbFirst ch) 0 = false := rfl

theorem bitAt_pacChar_stop : bitAt (pacChar lsbFirst ch) 9 = true := by cases lsbFirst <;> rfl

theorem bitAt_pacChar_data {j : Nat} (hj : j < 7) :
    bitAt (pacChar lsbFirst ch) (1 + j) = ch.getLsbD (if lsbFirst then j else 6 - j) := by
  have hdata : bitAt (pacData7 lsbFirst ch) j = ch.getLsbD (if lsbFirst then j else 6 - j) := by
    cases lsbFirst <;> simp [pacData7, bitAt, hj]
  have hlen : (pacData7 lsbFirst ch).length = 7 := by cases lsbFirst <;> rfl
  rw [← hdata, Nat.add_comm, pacChar, List.append_assoc, List.singleton_append, bitAt_cons_succ,
    bitAt_append_left (hj.trans_eq hlen.symm)]

/-- Either order of the data bits has the ones of the seven low bits. -/
theorem count_pacData7 : (pacData7 lsbFirst ch).count true = (List.range 7).countP fun k => ch.getLsbD k := by
  have hlow : ((List.range 7).map fun k => ch.getLsbD k).count true = (List.range 7).countP fun k => ch.getLsbD k := by
    rw [List.count, List.countP_map]
    exact List.countP_congr (by simp)
  cases lsbFirst with
  | true => exact hlow
  | false =>
    have hreverse : pacData7 false ch = ((List.range 7).map fun k => ch.getLsbD k).reverse := rfl
    rw [hreverse, List.count_reverse, hlow]

/-- The parity bit makes the ones among the data bits and itself odd (R194). -/
theorem count_pacChar_odd : (slice (pacChar lsbFirst ch) 1 8).count true % 2 = 1 := by
  have hslice : slice (pacChar lsbFirst ch) 1 8 = pacData7 lsbFirst ch ++ [oddPar7 ch] := by
    cases lsbFirst <;> rfl
  have hparity : [oddPar7 ch].count true = (oddPar7 ch).toNat := by cases oddPar7 ch <;> rfl
  rw [hslice, List.count_append, count_pacData7, hparity, toNat_oddPar7]
  omega

end Character

/-! ### The frame (R332) -/

theorem pacChars_eq {id : List Byte} (hid : id.length = 8) :
    pacChars id = [0x02#8, 0x32, 0x30] ++ id ++ [id.foldl (· ^^^ ·) 0] := by
  have hbytes : (List.range 8).map (byteAt id) = id :=
    List.ext_getElem (by simp [hid]) fun k _ hk => by simp [byteAt, hk]
  simp only [pacChars, hbytes]
  rfl

section Frame
variable (c : Config) (id : List Byte) {k : Nat} (hk : k < 12)
include hk

theorem slice_framePac :
    slice (framePac c id) (8 + 10 * k) 10 = pacChar c.pacLsbFirst ((pacChars id).getD k 0) := by
  have hlen : k < (pacChars id).length := by simpa [pacChars] using hk
  rw [framePac, slice_append_right _ (by simp), List.length_replicate, Nat.add_sub_cancel_left,
    slice_flatMap (length_pacChar c.pacLsbFirst) hlen, List.getD_eq_getElem _ _ hlen]

theorem bitAt_framePac {i : Nat} (hi : i < 10) :
    bitAt (framePac c id) (8 + 10 * k + i) = bitAt (pacChar c.pacLsbFirst ((pacChars id).getD k 0)) i := by
  rw [← slice_framePac c id hk, bitAt_slice hi]

end Frame

/-- Settles O51: behind the mark the frame is twelve characters of ten bits. -/
theorem pacFrameCharacters : Obligations.PacFrameCharacters := by
  unfold Obligations.PacFrameCharacters
  intro c id hid F chars
  refine ⟨slice_append_left _ (by simp), fun k hk => ⟨?start, ?stop, fun j hj => ?data, ?parity⟩⟩
  case start => exact (bitAt_framePac c id hk (by decide)).trans (bitAt_pacChar_start ..)
  case stop =>
    have hpos : 17 + 10 * k = 8 + 10 * k + 9 := by omega
    rw [hpos, bitAt_framePac c id hk (by decide), bitAt_pacChar_stop]
  case data =>
    have hpos : 9 + 10 * k + j = 8 + 10 * k + (1 + j) := by omega
    rw [hpos, bitAt_framePac c id hk (by omega), bitAt_pacChar_data _ _ hj, pacChars_eq hid]
  case parity =>
    have hpos : 9 + 10 * k = 8 + 10 * k + 1 := by omega
    rw [hpos, ← slice_slice (n := 10) (by decide), slice_framePac c id hk]
    exact count_pacChar_odd ..

end Sys2Proof.Machine
end

section
/-! PROOFS. The level and duration of every segment the renderers give (49_modulation_t5577.md, R351 to R354). -/

namespace Sys2Proof.Machine

/-! ### The halves of a bit cell (R351, R352) -/

theorem toNat_halfOne {B : Nat} (hB : B ≤ 2047) : (halfOne B).toNat = B / 2 := by
  rw [halfOne, BitVec.toNat_ofNat]; omega

theorem toNat_halfTwo {B : Nat} (hB : B ≤ 2047) : (halfTwo B).toNat = B - B / 2 := by
  rw [halfTwo, BitVec.toNat_ofNat]; omega

/-! ### Biphase (R351) -/

/-- Cell k of a biphase rendering: its first half toggles the level before it, its second half that of a 1. -/
theorem renderBiphaseFrom_cell (B : Nat) (lvl : Bool) {F : List Bool} {k : Nat} (hk : k < F.length) :
    let seg (j : Nat) : Segment := (renderBiphaseFrom B lvl F).getD j ⟨false, 0⟩
    seg (2 * k) = ⟨if k = 0 then !lvl else !(seg (2 * k - 1)).level, halfOne B⟩
      ∧ seg (2 * k + 1) = ⟨(seg (2 * k)).level ^^ bitAt F k, halfTwo B⟩ := by
  induction F generalizing lvl k with
  | nil => cases hk
  | cons b F ih =>
    cases k with
    | zero => exact ⟨rfl, rfl⟩
    | succ k =>
      obtain ⟨hfirst, hsecond⟩ := ih (!lvl ^^ b) (Nat.lt_of_succ_lt_succ hk)
      refine ⟨?_, hsecond⟩
      cases k with
      | zero => exact hfirst
      | succ k => exact hfirst

/-- Settles O53: each half of a cell has its level by the cell and its duration by B. -/
theorem biphaseRenderingTogglesAtBoundaries : Obligations.BiphaseRenderingTogglesAtBoundaries := by
  unfold Obligations.BiphaseRenderingTogglesAtBoundaries
  intro F B k hB hk seg
  obtain ⟨hfirst, hsecond⟩ := renderBiphaseFrom_cell B true hk
  refine ⟨congrArg Segment.level hfirst, congrArg Segment.level hsecond, ?first, ?second⟩
  case first => exact (congrArg (·.duration.toNat) hfirst).trans (toNat_halfOne hB)
  case second => exact (congrArg (·.duration.toNat) hsecond).trans (toNat_halfTwo hB)

/-! ### PSK (R352) -/

/-- A 1 in front changes the parity of the 1s. -/
theorem odd_count_cons (b : Bool) (F : List Bool) :
    decide ((b :: F).count true % 2 = 1) = (b ^^ decide (F.count true % 2 = 1)) := by
  cases b with
  | false => simp
  | true =>
    rw [List.count_cons_self, Bool.true_xor, ← decide_not, decide_eq_decide]
    omega

/-- Cell k of a PSK rendering: both halves have the phase that the 1s up to it leave. -/
theorem renderPskFrom_cell (B : Nat) (ph : Bool) {F : List Bool} {k : Nat} (hk : k < F.length) :
    let phase := ph ^^ decide ((F.take (k + 1)).count true % 2 = 1)
    (renderPskFrom B ph F).getD (2 * k) ⟨false, 0⟩ = ⟨phase, halfOne B⟩
      ∧ (renderPskFrom B ph F).getD (2 * k + 1) ⟨false, 0⟩ = ⟨phase, halfTwo B⟩ := by
  induction F generalizing ph k with
  | nil => cases hk
  | cons b F ih =>
    cases k with
    | zero => cases b <;> exact ⟨rfl, rfl⟩
    | succ k =>
      rw [List.take_succ_cons, odd_count_cons, ← Bool.xor_assoc]
      exact ih (ph ^^ b) (Nat.lt_of_succ_lt_succ hk)

/-- Settles O54: rendering starts at phase 0, so the phase of a cell is the parity of the 1s up to it. -/
theorem pskRenderingReversesOnOnes : Obligations.PskRenderingReversesOnOnes := by
  unfold Obligations.PskRenderingReversesOnOnes
  intro F B k hB hk seg
  obtain ⟨hfirst, hsecond⟩ := renderPskFrom_cell B false hk
  rw [Bool.false_xor] at hfirst hsecond
  refine ⟨congrArg Segment.level hfirst, ?same, ?first, ?second⟩
  case same => exact (congrArg Segment.level hsecond).trans (congrArg Segment.level hfirst).symm
  case first => exact (congrArg (·.duration.toNat) hfirst).trans (toNat_halfOne hB)
  case second => exact (congrArg (·.duration.toNat) hsecond).trans (toNat_halfTwo hB)

/-! ### FSK and NRZ (R353, R354) -/

/-- Segment j of a repeated cycle of two segments. -/
theorem getElem?_cycles (x y : Segment) {m j : Nat} (hj : j < 2 * m) :
    (List.replicate m [x, y]).flatten[j]? = some (if j % 2 = 0 then x else y) := by
  induction m generalizing j with
  | zero => omega
  | succ m ih =>
    rw [List.replicate_succ, List.flatten_cons]
    match j with
    | 0 => rfl
    | 1 => rfl
    | j + 2 =>
      have hmod : (j + 2) % 2 = j % 2 := by omega
      rw [hmod, ← ih (by omega)]
      rfl

/-- Segment j of an FSK bit (R353). -/
theorem getElem?_fskCell (B : Nat) (b : Bool) {j : Nat} (hj : j < 2 * (if b then B / 10 else B / 8)) :
    (fskCell B b)[j]? = some ⟨decide (j % 2 = 0), if b then 5 else 4⟩ := by
  cases b with
  | true | false =>
    refine (getElem?_cycles _ _ hj).trans ?_
    split <;> simp [*]

/-- The bits of a frame before, at and after position k. -/
theorem renderFsk_split (B : Nat) {F : List Bool} {k : Nat} (hk : k < F.length) :
    renderFsk F B = renderFsk (F.take k) B ++ fskCell B (bitAt F k) ++ renderFsk (F.drop (k + 1)) B := by
  have hbit : F[k] = bitAt F k := by simp [bitAt, hk]
  conv_lhs => rw [← List.take_append_drop k F, List.drop_eq_getElem_cons hk, hbit]
  simp [renderFsk]

/-- Settles O60: the bits before position k take the segments before its own. -/
theorem fskAndNrzRenderingGiveTheirSegments : Obligations.FskAndNrzRenderingGiveTheirSegments := by
  unfold Obligations.FskAndNrzRenderingGiveTheirSegments
  intro F B start
  refine ⟨?length, fun k hk j hj => ?segment, List.length_map _, fun k hk => ?nrz⟩
  case length => rw [length_renderFsk]; simp [start]
  case segment =>
    have hstart : (renderFsk (F.take k) B).length = start k := length_renderFsk _ B
    have hcell : j < (fskCell B (bitAt F k)).length := by rw [length_fskCell]; exact hj
    rw [renderFsk_split B hk, List.append_assoc, ← hstart, List.getElem?_append_right (Nat.le_add_right _ _),
      Nat.add_sub_cancel_left, List.getElem?_append_left hcell, getElem?_fskCell B _ hj]
  case nrz => simp [renderNrz, bitAt, hk]

end Sys2Proof.Machine
end
